-- ==== Sys2Proof/Word.lean ====
section
/-! DEFINITION. The word types of the block: bytes, 12-bit and 16-bit samples, floating-point patterns (spec/00_scope.md R7). -/

namespace Sys2Proof

/-- MODEM_BITS (R6). -/
abbrev Config.modemBits : Nat := 12

/-- NET_BITS (R6). -/
abbrev Config.netBits : Nat := 16

/-- The width of FP's format (R6 FP, D4): the pattern of a floating-point value has this many bits. -/
abbrev Config.fpBits : Nat := 32

/-- A byte, `u8` (R7, R30). -/
abbrev Byte := BitVec 8

/-- A modem-side sample, `u12` (R6 MODEM_BITS, R51). -/
abbrev Sample12 := BitVec Config.modemBits

/-- A network-side sample, `u16` (R6 NET_BITS, R52). -/
abbrev Sample16 := BitVec Config.netBits

/-- A floating-point value as its pattern; what the pattern means is FP's to say (R6 FP). In binary32 it is R7's `f32`. -/
abbrev F32 := BitVec Config.fpBits

/-- A binary32 pattern: sign 31, biased exponent 30:23, fraction 22:0 (R61). -/
abbrev Binary32 := BitVec 32

end Sys2Proof
end

