-- ==== Sys2Proof/Config.lean ====
section
/-! DEFINITION. The implementation parameters of spec/00_scope.md R6 as plain data, the source's literals as named
constants (D8), and the values the spec leaves open as constants with no body. -/

namespace Sys2Proof

/-- The three recognised tag bytes (R6, R54). -/
structure Tags where
  header : Byte
  data   : Byte
  eot    : Byte
deriving DecidableEq, Repr, Inhabited

/-- A filter's gain parameter: the linear multiplier itself, or decibels to be converted once (R6, R102).
DESIGN CHOICE (log 14): decibels are an exact rational number. -/
inductive Gain where
  | linear (g : F32)
  | decibel (dB : Rat)
deriving DecidableEq, Repr, Inhabited

/-- The parameters of one filter instance (R6, R101). -/
structure FilterParams where
  b0 : F32
  b1 : F32
  b2 : F32
  a0 : F32
  a1 : F32
  a2 : F32
  gain : Gain
deriving DecidableEq, Repr, Inhabited

/-- The configuration record FP, by name, so that State stays plain data (R6, D4): IEEE 754 binary32 with one rounding per
operation, to nearest, ties to even; or another format with its own arithmetic, of which nothing is known (log 25). FP decides
what a pattern means and every operation on it: the six of R6, the literals of the formulas, which patterns are zero or
finite, and the conversion of decibels. -/
inductive Fp where
  | binary32
  | other (name : Nat)
deriving DecidableEq, Repr, Inhabited

/-- The parameters of one instance of the block (R6). `accDepth = none` is the unbounded accumulator (D9). -/
structure Params where
  drainCap   : Nat
  outCapMax  : Nat
  netReadMax : Nat
  tags       : Tags
  de         : FilterParams
  pre        : FilterParams
  netPresent : Bool
  accDepth   : Option Nat
  fp         : Fp
deriving DecidableEq, Repr, Inhabited

/-- The two-operand operations of the floating-point unit (R7). -/
inductive FpOp where
  | add
  | sub
  | mul
  | div
deriving DecidableEq, Repr, Inhabited

namespace Config

/-- DRAIN_CAP (R6). -/
abbrev drainCap : Nat := 255
/-- OUT_CAP_MAX (R6). -/
abbrev outCapMax : Nat := 252
/-- NET_READ_MAX (R6). -/
abbrev netReadMax : Nat := 168
/-- GROUP_BYTES (R6). -/
abbrev groupBytes : Nat := 3
/-- GROUP_SAMPLES (R6). -/
abbrev groupSamples : Nat := 2
/-- MID12, the 12-bit midpoint and scale (R6). -/
abbrev mid12 : Int := 2048
/-- SCALE16, the 16-bit scale (R6). -/
abbrev scale16 : Int := 32767
/-- The bits of one packed group: GROUP_SAMPLES samples of MODEM_BITS. -/
abbrev groupBits : Nat := groupSamples * modemBits
/-- The mask of one modem-side sample, MODEM_BITS ones. -/
abbrev modemMask : Nat := 2 ^ modemBits - 1
/-- The network-side bytes of one group: GROUP_SAMPLES samples of NET_BITS. -/
abbrev netGroupBytes : Nat := groupSamples * (netBits / 8)
/-- The bytes of a floating-point pattern in a unit record (log 6). -/
abbrev fpBytes : Nat := fpBits / 8
/-- CHUNK_MAX, the largest chunk the record's 16-bit length spells (R6, D21). -/
abbrev chunkMax : Nat := 65535
/-- The tag value the source names as unrecognised (R54). -/
def tagUnrecognised : Byte := 0x7F

/-- PRESUMED (log 12): the spec's default tag values, from general knowledge and not from the source (R6, R54, G1). -/
def defaultTags : Tags := { header := 0x00, data := 0x01, eot := 0x03 }

/-- OPEN in the spec: the parameters of DE (R6, R101, D7). Free value, no body (log 11). -/
opaque openDe : FilterParams
/-- OPEN in the spec: the parameters of PRE (R6, R101, D7). Free value, no body (log 11). -/
opaque openPre : FilterParams
/-- OPEN in the spec: NET_PRESENT (R6, R21, D13). Free value, no body (log 11). -/
opaque openNetPresent : Bool

/-- The answer of the k-th transaction that `State` schedules no answer for: writeEOT (R117, log 8). -/
opaque freeEot : Nat → Bool
/-- The answer of the k-th transaction that `State` schedules no answer for: writeData (R117, log 8). -/
opaque freeData : Nat → Bool
/-- The answer of the k-th transaction that `State` schedules no answer for: read (R117, log 8). -/
opaque freeRead : Nat → List Byte

/-- What ACC holds after a fault, cut to ACC_DEPTH where that is finite (R14, R146, U20, log 3). -/
opaque freeAcc : Nat → List Byte
/-- What a field of a filter instance holds after a fault (R146, U20, log 3). The first argument numbers the field. -/
opaque freeField : Nat → Nat → F32
/-- What NET_PRESENT is after a fault (R146, U20, log 3). -/
opaque freeNetPresent : Nat → Bool

/-- The pattern of a NaN the spec does not determine (D24, log 10). -/
opaque freeNaN : FpOp → Binary32 → Binary32 → Binary32

/-- The two-operand operations of a format other than binary32 (R6 FP, U24, log 25). -/
opaque otherOp : Nat → FpOp → F32 → F32 → F32
/-- `i2f` of a format other than binary32 (R6 FP, U24, log 25). -/
opaque otherOfInt : Nat → Int → F32
/-- `f2i_trunc` of a format other than binary32; the error is the value that is no number (R6 FP, U24, log 25). -/
opaque otherToInt : Nat → F32 → Except F32 Int
/-- `+0.0` of a format other than binary32 (R6 FP, R17, U24, log 25). -/
opaque otherZero : Nat → F32
/-- The literal 0.5 of a format other than binary32 (R6 FP, R88, U24, log 25). -/
opaque otherHalf : Nat → F32
/-- Which patterns of a format other than binary32 are zero (R6 FP, R19, U24, log 25). -/
opaque otherIsZero : Nat → F32 → Bool
/-- Which patterns of a format other than binary32 are neither NaN nor infinite (R6 FP, R19, U24, log 25). -/
opaque otherIsFinite : Nat → F32 → Bool
/-- `db_to_lin` of a format other than binary32 (R6 FP, R102, U24, log 25). -/
opaque otherOfDecibel : Nat → Rat → F32

end Config
end Sys2Proof
end

