-- ==== Sys2Proof/Syntax.lean ====
section
/-! DEFINITION. The operations of the block, one constructor per row of spec/opcode_table.json (30_encoding.md R50, R58). -/

namespace Sys2Proof

/-- The two filter instances, the `inst` operand of BIQUAD.STEP (R15, R56). -/
inductive FilterId where
  | de
  | pre
deriving DecidableEq, Repr

/-- The level of an operation: host command, arm of M2N, functional unit (R50). -/
inductive Level where
  | host
  | arm
  | unit
deriving DecidableEq, Repr

/-- The operations. -/
inductive Instr where
  /-- M2N (R118). `none` is an absent chunk reference, which no record spells (log 16). -/
  | m2n (chunk : Option (List Byte))
  /-- N2M (R125). -/
  | n2m (capacity : BitVec 16)
  /-- TICK (R129). -/
  | tick (ms : BitVec 32)
  /-- ENABLE (R130). The byte is kept as presented: 0 disables, anything else enables (R57). -/
  | enable (flag : Byte)
  /-- M2N.HEADER (R119). -/
  | m2nHeader (payload : List Byte)
  /-- M2N.DATA (R121). -/
  | m2nData (payload : List Byte)
  /-- M2N.EOT (R120). -/
  | m2nEot (payload : List Byte)
  /-- M2N.OTHER (R122). -/
  | m2nOther (tag : Byte) (payload : List Byte)
  /-- ACC.APPEND (R71). -/
  | accAppend (bytes : List Byte)
  /-- ACC.SIZE (R72). -/
  | accSize
  /-- ACC.DRAIN (R73). -/
  | accDrain (n : Nat)
  /-- UNPACK12 (R81). -/
  | unpack12 (t0 t1 t2 : Byte)
  /-- PACK12 (R82). -/
  | pack12 (a b : Int)
  /-- DEC12F (R84). -/
  | dec12f (u : Sample12)
  /-- ENC16 (R85). -/
  | enc16 (f : F32)
  /-- DEC16F (R89). -/
  | dec16f (u : Sample16)
  /-- ENC12 (R90). -/
  | enc12 (f : F32)
  /-- DES16 (R91). -/
  | des16 (p0 p1 : Byte)
  /-- SER16 (R92). -/
  | ser16 (u : Sample16)
  /-- BIQUAD.STEP (R104). -/
  | biquadStep (f : FilterId) (x : F32)
deriving DecidableEq, Repr

/-- The level of each operation (R50). -/
def Instr.level : Instr → Level
  | .m2n _ => .host
  | .n2m _ => .host
  | .tick _ => .host
  | .enable _ => .host
  | .m2nHeader _ => .arm
  | .m2nData _ => .arm
  | .m2nEot _ => .arm
  | .m2nOther _ _ => .arm
  | .accAppend _ => .unit
  | .accSize => .unit
  | .accDrain _ => .unit
  | .unpack12 _ _ _ => .unit
  | .pack12 _ _ => .unit
  | .dec12f _ => .unit
  | .enc16 _ => .unit
  | .dec16f _ => .unit
  | .enc12 _ => .unit
  | .des16 _ _ => .unit
  | .ser16 _ => .unit
  | .biquadStep _ _ => .unit

end Sys2Proof
end

