-- ==== Sys2Proof/WellFormed.lean ====
section
/-! DEFINITION. Which operations have an encoding: the operand limits of the command record (30_encoding.md R57), of the
tag classes (R54) and of the model's own unit records (log 6). -/

namespace Sys2Proof

/-- ACC.DRAIN's operand in a unit record: 32 bits (log 6). -/
abbrev drainOperandLimit : Nat := 2 ^ 32

/-- PACK12's operands in a unit record: 136 bits in two's complement, wide enough for every ENC12 result (log 6). -/
abbrev packOperandBits : Nat := 136

/-- An integer that 136 bits in two's complement hold. -/
def packOperandOk (a : Int) : Bool :=
  decide (-(2 : Int) ^ (packOperandBits - 1) ≤ a) && decide (a < (2 : Int) ^ (packOperandBits - 1))

/-- The byte is one of the three recognised tags (R54). -/
def Tags.recognises (t : Tags) (tag : Byte) : Bool :=
  tag == t.header || tag == t.eot || tag == t.data

/-- The tag constants are as R54 asks: pairwise distinct and none the unrecognised value. -/
def Tags.legal (t : Tags) : Bool :=
  t.header != t.data && t.header != t.eot && t.data != t.eot &&
    t.header != Config.tagUnrecognised && t.data != Config.tagUnrecognised && t.eot != Config.tagUnrecognised

/-- The operation has an encoding under the tag constants `t`. -/
def Instr.wellFormed (t : Tags) : Instr → Bool
  | .m2n none => false
  | .m2n (some chunk) => decide (chunk.length ≤ Config.chunkMax)
  | .n2m _ => true
  | .tick _ => true
  | .enable _ => true
  | .m2nHeader payload => decide (payload.length < Config.chunkMax)
  | .m2nData payload => decide (payload.length < Config.chunkMax)
  | .m2nEot payload => decide (payload.length < Config.chunkMax)
  | .m2nOther tag payload => !t.recognises tag && decide (payload.length < Config.chunkMax)
  | .accAppend bytes => decide (bytes.length ≤ Config.chunkMax)
  | .accSize => true
  | .accDrain n => decide (n < drainOperandLimit)
  | .unpack12 _ _ _ => true
  | .pack12 a b => packOperandOk a && packOperandOk b
  | .dec12f _ => true
  | .enc16 _ => true
  | .dec16f _ => true
  | .enc12 _ => true
  | .des16 _ _ => true
  | .ser16 _ => true
  | .biquadStep _ _ => true

end Sys2Proof
end

