-- ==== Sys2Proof/Decode.lean ====
section
/-! DEFINITION. The command record and the tag decode of spec/30_encoding.md (R54, R56, R57, R59), the model's own unit
records (log 6), and the encoder written from the same tables. -/

namespace Sys2Proof

/-- Why bytes spell no operation. -/
inductive Reject where
  /-- no byte is presented -/
  | noRecord
  /-- the record of this code is not complete yet -/
  | incomplete (code : Byte)
  /-- the code is none of this port's (R59) -/
  | illegalCode (code : Byte)
  /-- a unit record's operand has no such value (log 6) -/
  | operandRange (code : Byte)
deriving DecidableEq, Repr

/-! ## Codes (R56) -/

def codeM2n : Byte := 0x00
def codeN2m : Byte := 0x01
def codeTick : Byte := 0x02
def codeEnable : Byte := 0x03
def codeAccAppend : Byte := 0x10
def codeAccSize : Byte := 0x11
def codeAccDrain : Byte := 0x12
def codeUnpack12 : Byte := 0x20
def codePack12 : Byte := 0x21
def codeDec12f : Byte := 0x22
def codeEnc16 : Byte := 0x23
def codeDec16f : Byte := 0x24
def codeEnc12 : Byte := 0x25
def codeDes16 : Byte := 0x26
def codeSer16 : Byte := 0x27
def codeBiquadStep : Byte := 0x30

/-- The unit indices of R56. -/
def unitCodes : List Byte :=
  [codeAccAppend, codeAccSize, codeAccDrain, codeUnpack12, codePack12, codeDec12f, codeEnc16, codeDec16f,
    codeEnc12, codeDes16, codeSer16, codeBiquadStep]

/-! ## Multi-byte fields, big-endian (R57) -/

/-- The low `k` bytes of `v`, most significant first. -/
def beBytes : Nat → Nat → List Byte
  | 0, _ => []
  | k + 1, v => BitVec.ofNat 8 (v / 256 ^ k) :: beBytes k v

/-- The number a byte sequence spells, most significant first. -/
def beNat : List Byte → Nat
  | [] => 0
  | b :: bs => b.toNat * 256 ^ bs.length + beNat bs

/-- The first `k` bytes and the rest, if there are that many. -/
def splitBytes (k : Nat) (bs : List Byte) : Option (List Byte × List Byte) :=
  if k ≤ bs.length then some (bs.take k, bs.drop k) else none

/-- A 16-bit length and that many bytes, and the rest (R57 M2N). -/
def splitCounted (bs : List Byte) : Option (List Byte × List Byte) :=
  match splitBytes 2 bs with
  | some (len, rest) => splitBytes (beNat len) rest
  | none => none

/-- Two's complement of `bits` bits, read and written (log 6). -/
def intOfNat (bits v : Nat) : Int :=
  if v < 2 ^ (bits - 1) then (v : Int) else (v : Int) - (2 : Int) ^ bits

def natOfInt (bits : Nat) (a : Int) : Nat := (a % (2 : Int) ^ bits).toNat

/-! ## The host port (R57, R59) -/

/-- One field of `k` bytes after the code `c`, handed to `f`. -/
def withField (c : Byte) (k : Nat) (rest : List Byte) (f : List Byte → Option Instr) :
    Except Reject (Instr × List Byte) :=
  match splitBytes k rest with
  | none => .error (.incomplete c)
  | some (field, more) =>
    match f field with
    | some i => .ok (i, more)
    | none => .error (.operandRange c)

/-- A counted byte sequence after the code `c`, handed to `f`. -/
def withCounted (c : Byte) (rest : List Byte) (f : List Byte → Instr) : Except Reject (Instr × List Byte) :=
  match splitCounted rest with
  | none => .error (.incomplete c)
  | some (field, more) => .ok (f field, more)

/-- One command record at the front of the stream, and the stream after it (R57). The unit indices are illegal here (R59). -/
def decodeHost : List Byte → Except Reject (Instr × List Byte)
  | [] => .error .noRecord
  | c :: rest =>
    if c = codeM2n then withCounted c rest fun chunk => .m2n (some chunk)
    else if c = codeN2m then withField c 2 rest fun v => some (.n2m (BitVec.ofNat 16 (beNat v)))
    else if c = codeTick then withField c 4 rest fun v => some (.tick (BitVec.ofNat 32 (beNat v)))
    else if c = codeEnable then withField c 1 rest fun v => some (.enable (BitVec.ofNat 8 (beNat v)))
    else .error (.illegalCode c)

/-! ## The unit port (codes of R56, operand bytes of log 6) -/

/-- The `inst` operand of BIQUAD.STEP (R56). -/
def decodeFilterId (n : Nat) : Option FilterId :=
  if n = 0 then some .de else if n = 1 then some .pre else none

/-- Three bytes as UNPACK12's operands. -/
def operandsUnpack12 : List Byte → Option Instr
  | [t0, t1, t2] => some (.unpack12 t0 t1 t2)
  | _ => none

/-- Two bytes as DES16's operands. -/
def operandsDes16 : List Byte → Option Instr
  | [p0, p1] => some (.des16 p0 p1)
  | _ => none

/-- Two 17-byte integers as PACK12's operands. -/
def operandsPack12 (v : List Byte) : Option Instr :=
  some (.pack12 (intOfNat packOperandBits (beNat (v.take 17))) (intOfNat packOperandBits (beNat (v.drop 17))))

/-- A 12-bit sample in two bytes as DEC12F's operand. -/
def operandsDec12f (v : List Byte) : Option Instr :=
  if beNat v < 2 ^ Config.modemBits then some (.dec12f (BitVec.ofNat Config.modemBits (beNat v))) else none

/-- The instance byte and the sample of BIQUAD.STEP. -/
def operandsBiquadStep (v : List Byte) : Option Instr :=
  match decodeFilterId (beNat (v.take 1)) with
  | some f => some (.biquadStep f (BitVec.ofNat Config.fpBits (beNat (v.drop 1))))
  | none => none

/-- One unit record at the front of the unit port, and what follows it. -/
def decodeUnit : List Byte → Except Reject (Instr × List Byte)
  | [] => .error .noRecord
  | c :: rest =>
    if c = codeAccAppend then withCounted c rest fun bytes => .accAppend bytes
    else if c = codeAccSize then .ok (.accSize, rest)
    else if c = codeAccDrain then withField c 4 rest fun v => some (.accDrain (beNat v))
    else if c = codeUnpack12 then withField c 3 rest operandsUnpack12
    else if c = codePack12 then withField c 34 rest operandsPack12
    else if c = codeDec12f then withField c 2 rest operandsDec12f
    else if c = codeEnc16 then withField c Config.fpBytes rest fun v => some (.enc16 (BitVec.ofNat Config.fpBits (beNat v)))
    else if c = codeDec16f then withField c 2 rest fun v => some (.dec16f (BitVec.ofNat Config.netBits (beNat v)))
    else if c = codeEnc12 then withField c Config.fpBytes rest fun v => some (.enc12 (BitVec.ofNat Config.fpBits (beNat v)))
    else if c = codeDes16 then withField c 2 rest operandsDes16
    else if c = codeSer16 then withField c 2 rest fun v => some (.ser16 (BitVec.ofNat Config.netBits (beNat v)))
    else if c = codeBiquadStep then withField c (1 + Config.fpBytes) rest operandsBiquadStep
    else .error (.illegalCode c)

/-! ## The tag decode (R54) -/

/-- The four classes of a tag byte. -/
inductive TagClass where
  | header
  | eot
  | data
  | other
deriving DecidableEq, Repr

/-- The comparisons of R118, in its order. -/
def classifyTag (t : Tags) (tag : Byte) : TagClass :=
  if tag = t.header then .header
  else if tag = t.eot then .eot
  else if tag = t.data then .data
  else .other

/-- The arm of M2N that a tag and a payload select (R53, R54). -/
def armOf (t : Tags) (tag : Byte) (payload : List Byte) : Instr :=
  match classifyTag t tag with
  | .header => .m2nHeader payload
  | .eot => .m2nEot payload
  | .data => .m2nData payload
  | .other => .m2nOther tag payload

/-- The arm that a chunk spells. The chunk's length stands beside it, so the whole sequence is taken (R53). -/
def decodeChunk (t : Tags) : List Byte → Except Reject (Instr × List Byte)
  | [] => .error .noRecord
  | tag :: payload => .ok (armOf t tag payload, [])

/-- The decoder of each level. -/
def decode (t : Tags) (l : Level) (bs : List Byte) : Except Reject (Instr × List Byte) :=
  match l with
  | .host => decodeHost bs
  | .arm => decodeChunk t bs
  | .unit => decodeUnit bs

/-! ## The encoder -/

/-- A length field and the bytes (R57). -/
def counted (bs : List Byte) : List Byte := beBytes 2 bs.length ++ bs

/-- The `inst` operand's byte (R56). -/
def filterIdByte : FilterId → Byte
  | .de => 0
  | .pre => 1

/-- The bytes of an operation at its level: a command record (R57), a chunk (R53), a unit record (log 6). -/
def encode (t : Tags) : Instr → List Byte
  | .m2n chunk => codeM2n :: counted (chunk.getD [])
  | .n2m capacity => codeN2m :: beBytes 2 capacity.toNat
  | .tick ms => codeTick :: beBytes 4 ms.toNat
  | .enable flag => [codeEnable, flag]
  | .m2nHeader payload => t.header :: payload
  | .m2nData payload => t.data :: payload
  | .m2nEot payload => t.eot :: payload
  | .m2nOther tag payload => tag :: payload
  | .accAppend bytes => codeAccAppend :: counted bytes
  | .accSize => [codeAccSize]
  | .accDrain n => codeAccDrain :: beBytes 4 n
  | .unpack12 t0 t1 t2 => [codeUnpack12, t0, t1, t2]
  | .pack12 a b =>
    codePack12 :: (beBytes 17 (natOfInt packOperandBits a) ++ beBytes 17 (natOfInt packOperandBits b))
  | .dec12f u => codeDec12f :: beBytes 2 u.toNat
  | .enc16 f => codeEnc16 :: beBytes Config.fpBytes f.toNat
  | .dec16f u => codeDec16f :: beBytes 2 u.toNat
  | .enc12 f => codeEnc12 :: beBytes Config.fpBytes f.toNat
  | .des16 p0 p1 => [codeDes16, p0, p1]
  | .ser16 u => codeSer16 :: beBytes 2 u.toNat
  | .biquadStep f x => codeBiquadStep :: filterIdByte f :: beBytes Config.fpBytes x.toNat

/-! ## The opcode table's words -/

/-- How many bytes the record that begins with these bytes has, bytes not given counting as zero (R57). -/
def recordLength : List Byte → Nat
  | [] => 0
  | c :: rest =>
    if c = codeM2n ∨ c = codeAccAppend then 3 + beNat [rest.getD 0 0, rest.getD 1 0]
    else if c = codeN2m ∨ c = codeDec12f ∨ c = codeDec16f ∨ c = codeDes16 ∨ c = codeSer16 then 3
    else if c = codeTick ∨ c = codeAccDrain then 5
    else if c = codeEnc16 ∨ c = codeEnc12 then 1 + Config.fpBytes
    else if c = codeEnable then 2
    else if c = codeUnpack12 then 4
    else if c = codePack12 then 35
    else if c = codeBiquadStep then 2 + Config.fpBytes
    else 1

/-- The bytes of an opcode-table word in stream order: byte k is bits 8k+7..8k, and zeros complete the record. -/
def tableBytes (nbits w : Nat) : List Byte :=
  let bs := (List.range (nbits / 8)).map fun k => BitVec.ofNat 8 (w / 256 ^ k)
  bs ++ List.replicate (recordLength bs - bs.length) 0

/-- A table word's port: the unit port for the unit indices, else the host port (log 23). -/
def tableLevel (bs : List Byte) : Level :=
  match bs with
  | [] => .host
  | c :: _ => if unitCodes.contains c then .unit else .host

/-- The operation that the decoder reads from an opcode-table word. -/
def decodeTableWord (nbits w : Nat) : Option Instr :=
  let bs := tableBytes nbits w
  match decode Config.defaultTags (tableLevel bs) bs with
  | .ok (i, _) => some i
  | .error _ => none

end Sys2Proof
end

