-- ==== Sys2Proof/Machine/Float.lean ====
section
/-! DEFINITION. The binary32 arithmetic of spec/00_scope.md R7 and 41_sample_codec.md R87, R88: operands are converted to
exact integers, computed exactly, and rounded once to nearest, ties to even, with gradual underflow (D4, D24). -/

namespace Sys2Proof.Machine

/-! ## Fields (R61) -/

/-- The magnitude bits 30:0 of infinity. Smaller magnitudes are finite, larger ones NaN. -/
def infMag : Nat := 0x7F800000

def fSign (x : Binary32) : Bool := x.msb
def fMag (x : Binary32) : Nat := x.toNat % 2 ^ 31
def fIsNaN (x : Binary32) : Bool := decide (infMag < fMag x)
def fIsInf (x : Binary32) : Bool := decide (fMag x = infMag)
def fIsFinite (x : Binary32) : Bool := decide (fMag x < infMag)
def fIsZero (x : Binary32) : Bool := decide (fMag x = 0)

/-- The pattern with a sign and magnitude bits. -/
def fPack (neg : Bool) (mag : Nat) : Binary32 := BitVec.ofNat 32 ((if neg then 2 ^ 31 else 0) + mag)

def fInf (neg : Bool) : Binary32 := fPack neg infMag
def fNeg (x : Binary32) : Binary32 := x ^^^ 0x80000000#32

/-- The quiet NaN with sign 0 and no payload. -/
def fQuietNaN : Binary32 := 0x7FC00000#32

/-- Bit 22 set: a NaN is then quiet and keeps its payload. -/
def fQuieted (x : Binary32) : Binary32 := x ||| 0x00400000#32

/-! ## Values

Every finite binary32 value is a whole number of units of 2^-149. -/

/-- log2 of the number of units in 1. -/
def unitBits : Nat := 149

/-- The value of the magnitude bits, in units. The formula at `infMag` gives 2^128, the overflow threshold's next value. -/
def magUnits (m : Nat) : Nat :=
  if m / 2 ^ 23 = 0 then m else (2 ^ 23 + m % 2 ^ 23) * 2 ^ (m / 2 ^ 23 - 1)

/-- The value of a finite pattern, in units. -/
def fUnits (x : Binary32) : Int := if fSign x then -(magUnits (fMag x) : Int) else (magUnits (fMag x) : Int)

/-- The position of the highest bit set in a number below 2^(2^k). -/
def topBit : Nat → Nat → Nat
  | 0, _ => 0
  | k + 1, q =>
    match q / 2 ^ 2 ^ k with
    | 0 => topBit k q
    | r + 1 => 2 ^ k + topBit k (r + 1)

/-- The magnitude bits nearest to `n / d` units, ties to even, infinity past the largest finite value (R7, D4). -/
@[irreducible] def roundMag (n d : Nat) : Nat :=
  let shift := topBit 9 (n / d) - 23
  let step := d * 2 ^ shift
  let q := n / step
  let r := n % step
  let up := if step < 2 * r ∨ (2 * r = step ∧ q % 2 = 1) then 1 else 0
  min (shift * 2 ^ 23 + q + up) infMag

/-! ## NaN results -/

/-- A NaN pattern the spec does not determine: a free quiet NaN (D24, log 10). -/
def freeQuietNaN (op : FpOp) (a b : Binary32) : Binary32 :=
  let r := Config.freeNaN op a b
  if fIsNaN r && fQuieted r == r then r else fQuietNaN

/-- The result when an operand is NaN: a single NaN operand propagates, quieted (D24 "NaN propagates", log 10). -/
def nanResult (op : FpOp) (a b : Binary32) : Binary32 :=
  if fIsNaN a && fIsNaN b then freeQuietNaN op a b
  else if fIsNaN a then fQuieted a
  else fQuieted b

/-! ## The operations (R7) -/

/-- The sum of two values neither of which is NaN and which are not opposite infinities. An exact zero sum is +0 unless
both operands are -0. -/
def sumOf (a b : Binary32) : Binary32 :=
  if fIsInf a then a
  else if fIsInf b then b
  else if fUnits a + fUnits b = 0 then fPack (fSign a && fSign b) 0
  else fPack (decide (fUnits a + fUnits b < 0)) (roundMag (fUnits a + fUnits b).natAbs 1)

@[irreducible] def fadd (a b : Binary32) : Binary32 :=
  if fIsNaN a || fIsNaN b then nanResult .add a b
  else if fIsInf a && fIsInf b && fSign a != fSign b then freeQuietNaN .add a b
  else sumOf a b

@[irreducible] def fsub (a b : Binary32) : Binary32 :=
  if fIsNaN a || fIsNaN b then nanResult .sub a b
  else if fIsInf a && fIsInf b && fSign a == fSign b then freeQuietNaN .sub a b
  else sumOf a (fNeg b)

@[irreducible] def fmul (a b : Binary32) : Binary32 :=
  if fIsNaN a || fIsNaN b then nanResult .mul a b
  else if (fIsInf a && fIsZero b) || (fIsZero a && fIsInf b) then freeQuietNaN .mul a b
  else if fIsInf a || fIsInf b then fInf (fSign a != fSign b)
  else fPack (fSign a != fSign b) (roundMag (magUnits (fMag a) * magUnits (fMag b)) (2 ^ unitBits))

@[irreducible] def fdiv (a b : Binary32) : Binary32 :=
  if fIsNaN a || fIsNaN b then nanResult .div a b
  else if (fIsInf a && fIsInf b) || (fIsZero a && fIsZero b) then freeQuietNaN .div a b
  else if fIsInf a || fIsZero b then fInf (fSign a != fSign b)
  else if fIsInf b then fPack (fSign a != fSign b) 0
  else fPack (fSign a != fSign b) (roundMag (magUnits (fMag a) * 2 ^ unitBits) (magUnits (fMag b)))

/-- An integer as `f32`, exact for |n| ≤ 2^24 (R7). -/
@[irreducible] def i2f (n : Int) : Binary32 := fPack (decide (n < 0)) (roundMag (n.natAbs * 2 ^ unitBits) 1)

/-- The float-to-integer cast: truncation toward zero to a mathematical integer. A NaN or an infinity is handed back as the
error (R87). -/
@[irreducible] def f2iTrunc (v : Binary32) : Except Binary32 Int :=
  if fIsFinite v then .ok ((fUnits v).tdiv (2 ^ unitBits)) else .error v

/-! ## Constants of the formulas (R88) -/

def fOne : Binary32 := 0x3F800000#32
def fHalf : Binary32 := 0x3F000000#32

/-! ## Binary32 as the format of FP

A binary32 pattern is held in the low 32 bits of a floating-point pattern. -/

def ofBinary32 (v : Binary32) : F32 := v.setWidth Config.fpBits

def toBinary32 (v : F32) : Binary32 := v.setWidth 32

def binary32Op : FpOp → Binary32 → Binary32 → Binary32
  | .add, a, b => fadd a b
  | .sub, a, b => fsub a b
  | .mul, a, b => fmul a b
  | .div, a, b => fdiv a b

end Sys2Proof.Machine

namespace Sys2Proof

open Machine

/-! ## The configuration record FP (R6, D4) -/

def Fp.op : Fp → FpOp → F32 → F32 → F32
  | .binary32, o, a, b => ofBinary32 (binary32Op o (toBinary32 a) (toBinary32 b))
  | .other k, o, a, b => Config.otherOp k o a b

/-- `fadd`. -/
def Fp.add (fp : Fp) (a b : F32) : F32 := fp.op .add a b
/-- `fsub`. -/
def Fp.sub (fp : Fp) (a b : F32) : F32 := fp.op .sub a b
/-- `fmul`. -/
def Fp.mul (fp : Fp) (a b : F32) : F32 := fp.op .mul a b
/-- `fdiv`. -/
def Fp.div (fp : Fp) (a b : F32) : F32 := fp.op .div a b

/-- `i2f`. -/
def Fp.ofInt : Fp → Int → F32
  | .binary32, n => ofBinary32 (i2f n)
  | .other k, n => Config.otherOfInt k n

/-- `f2i_trunc`. The error is the value that is no number (R87). -/
def Fp.toInt : Fp → F32 → Except F32 Int
  | .binary32, v =>
    match f2iTrunc (toBinary32 v) with
    | .ok z => .ok z
    | .error bits => .error (ofBinary32 bits)
  | .other k, v => Config.otherToInt k v

/-- `+0.0` (R17). -/
def Fp.zero : Fp → F32
  | .binary32 => ofBinary32 (fPack false 0)
  | .other k => Config.otherZero k

/-- The literal 1.0 (R88). -/
def Fp.one : Fp → F32
  | .binary32 => ofBinary32 fOne
  | .other k => Config.otherOfInt k 1

/-- The literal 0.5 (R88). -/
def Fp.half : Fp → F32
  | .binary32 => ofBinary32 fHalf
  | .other k => Config.otherHalf k

/-- The pattern is a zero, of either sign (R19). -/
def Fp.isZero : Fp → F32 → Bool
  | .binary32, v => fIsZero (toBinary32 v)
  | .other k, v => Config.otherIsZero k v

/-- The pattern is neither a NaN nor an infinity (R19). -/
def Fp.isFinite : Fp → F32 → Bool
  | .binary32, v => fIsFinite (toBinary32 v)
  | .other k, v => Config.otherIsFinite k v

end Sys2Proof
end

