-- ==== Sys2Proof/Machine/Setup.lean ====
section
/-! DEFINITION. Configuration: the filter instance (spec/10_state.md R15, R16), the gain conversion (42_emphasis_filter.md
R102), the checks that reset makes (70_reset_and_hazards.md R167), and the parameters the machine is built with. -/

namespace Sys2Proof.Machine

/-- A filter instance: seven constants and four history values (R15). -/
structure Filter where
  b0 : F32
  b1 : F32
  b2 : F32
  a0 : F32
  a1 : F32
  a2 : F32
  g  : F32
  x1 : F32
  x2 : F32
  y1 : F32
  y2 : F32
deriving DecidableEq, Repr

/-! ## Gain conversion (R102)

`10^(dB/20)` with `dB = p/q` is compared with a rational by raising both to the power `20q`. -/

/-- `j` half units (2^-150 each) are at most `10^(dB/20)`. -/
def leTenPow (dB : Rat) (j : Nat) : Bool :=
  decide (j ^ (20 * dB.den) * 10 ^ (-dB.num).toNat ≤ 2 ^ ((unitBits + 1) * (20 * dB.den)) * 10 ^ dB.num.toNat)

/-- `10^(dB/20)` is at most `j` half units. -/
def tenPowLe (dB : Rat) (j : Nat) : Bool :=
  decide (2 ^ ((unitBits + 1) * (20 * dB.den)) * 10 ^ dB.num.toNat ≤ j ^ (20 * dB.den) * 10 ^ (-dB.num).toNat)

/-- The largest finite magnitude pattern whose value is at most `10^(dB/20)`, found from its top bit down. -/
def tenPowFloor (dB : Rat) : Nat → Nat → Nat
  | 0, m => m
  | k + 1, m =>
    tenPowFloor dB k (if m + 2 ^ k < infMag ∧ leTenPow dB (2 * magUnits (m + 2 ^ k)) then m + 2 ^ k else m)

/-- `db_to_lin` in binary32: the `f32` nearest to `10^(dB/20)`, ties to even (R102). -/
@[irreducible] def dbToLin (dB : Rat) : Binary32 :=
  let m := tenPowFloor dB 31 0
  let mid := magUnits m + magUnits (m + 1)
  let up := if leTenPow dB mid ∧ (m % 2 = 1 ∨ ¬ tenPowLe dB mid) then 1 else 0
  fPack false (m + up)

/-- `db_to_lin` (R102). -/
def ofDecibel : Fp → Rat → F32
  | .binary32, dB => ofBinary32 (dbToLin dB)
  | .other k, dB => Config.otherOfDecibel k dB

/-- The linear gain that the block holds (R16, R102). -/
def linearGain (fp : Fp) : Gain → F32
  | .linear g => g
  | .decibel dB => ofDecibel fp dB

/-- An instance with its constants loaded and its history zero (R16, R17, R166). -/
def loadFilter (fp : Fp) (p : FilterParams) : Filter :=
  { b0 := p.b0, b1 := p.b1, b2 := p.b2, a0 := p.a0, a1 := p.a1, a2 := p.a2, g := linearGain fp p.gain,
    x1 := fp.zero, x2 := fp.zero, y1 := fp.zero, y2 := fp.zero }

/-! ## Checks (R19, R167) -/

/-- The seven constants of an instance. -/
inductive FilterConst where
  | b0
  | b1
  | b2
  | a0
  | a1
  | a2
  | g
deriving DecidableEq, Repr

/-- The three tag parameters (R6, D3). -/
inductive TagName where
  | header
  | data
  | eot
deriving DecidableEq, Repr

/-- What `ConfigInvalid` names (R145 "info which parameter"). -/
inductive ConfigParam where
  | filterConst (f : FilterId) (c : FilterConst)
  /-- two tag constants that are equal -/
  | tagPair (a b : TagName)
  /-- a tag constant that is the unrecognised value -/
  | tag (t : TagName)
  | drainCap
  | outCapMax
  | netReadMax
deriving DecidableEq, Repr

/-- The constants of an instance that are NaN or infinite. -/
def constChecks (fp : Fp) (f : FilterId) (p : FilterParams) : List (Bool × ConfigParam) :=
  [(!fp.isFinite p.b0, .filterConst f .b0), (!fp.isFinite p.b1, .filterConst f .b1), (!fp.isFinite p.b2, .filterConst f .b2),
   (!fp.isFinite p.a0, .filterConst f .a0), (!fp.isFinite p.a1, .filterConst f .a1), (!fp.isFinite p.a2, .filterConst f .a2),
   (!fp.isFinite (linearGain fp p.gain), .filterConst f .g)]

/-- Tag constants that are equal, then tag constants that are 0x7F. -/
def tagChecks (t : Tags) : List (Bool × ConfigParam) :=
  [(t.header == t.data, .tagPair .header .data), (t.header == t.eot, .tagPair .header .eot),
   (t.data == t.eot, .tagPair .data .eot), (t.header == Config.tagUnrecognised, .tag .header),
   (t.data == Config.tagUnrecognised, .tag .data), (t.eot == Config.tagUnrecognised, .tag .eot)]

/-- The checks of R167 in its order; a check is true when it is violated (log 22). -/
def configChecks (p : Params) : List (Bool × ConfigParam) :=
  [(p.fp.isZero p.de.a0, .filterConst .de .a0), (p.fp.isZero p.pre.a0, .filterConst .pre .a0)] ++
  constChecks p.fp .de p.de ++ constChecks p.fp .pre p.pre ++
  tagChecks p.tags ++
  [(decide (p.drainCap < Config.groupBytes), .drainCap), (decide (p.outCapMax < Config.groupBytes), .outCapMax),
   (decide (p.netReadMax < Config.netGroupBytes), .netReadMax)]

/-- The first parameter that violates a check of R167. -/
def firstInvalid (p : Params) : Option ConfigParam :=
  ((configChecks p).find? fun c => c.1).map fun c => c.2

/-- Legal constants of one instance: all finite and `a0` not zero (R16, R19). -/
def filterLegal (fp : Fp) (p : FilterParams) : Bool :=
  !fp.isZero p.a0 && fp.isFinite p.b0 && fp.isFinite p.b1 && fp.isFinite p.b2 && fp.isFinite p.a0 && fp.isFinite p.a1 &&
    fp.isFinite p.a2 && fp.isFinite (linearGain fp p.gain)

/-! ## The machine's own parameters -/

/-- The identity filter, T0 of 95_test_vectors.md. -/
def identityParams (fp : Fp) : FilterParams :=
  { b0 := fp.one, b1 := fp.zero, b2 := fp.zero, a0 := fp.one, a1 := fp.zero, a2 := fp.zero, gain := .linear fp.one }

/-- A free value kept within the limit the spec sets on it: whatever legal parameters `p` is (log 11). -/
def legalFilter (fp : Fp) (p : FilterParams) : FilterParams := if filterLegal fp p then p else identityParams fp

/-- The parameters of `State.reset`: the spec's values where it gives them, free values where it does not (log 11, log 12). -/
def installedParams : Params :=
  { drainCap := Config.drainCap, outCapMax := Config.outCapMax, netReadMax := Config.netReadMax,
    tags := Config.defaultTags, de := legalFilter .binary32 Config.openDe, pre := legalFilter .binary32 Config.openPre,
    netPresent := Config.openNetPresent, accDepth := none, fp := .binary32 }

end Sys2Proof.Machine
end

