-- ==== Sys2Proof/Machine/State.lean ====
section
/-! DEFINITION. The state of the block (spec/10_state.md section 1), its parameters, its two ports and what an observer has
seen, as plain data; and the state after reset (R26, R166). -/

namespace Sys2Proof.Machine

/-- The operand whose reference is absent (R141). -/
inductive NullOperand where
  | chunk
  | outputBuffer
deriving DecidableEq, Repr

/-- The faults the block raises, with their info (R141 to R145). They are latched in FAULTED and FAULT_CODE and the block goes
on to a next state in which every command is refused (R146, R147, log 2). -/
inductive Raise where
  | zeroLength
  | zeroCapacity
  | nullArgument (operand : NullOperand)
  | accUnderflow (n : Nat)
  | accOverflow (n : Nat)
  | numericFault (bits : F32)
  | netAbsent
  | illegalCommand (code : Byte)
  | configInvalid (param : ConfigParam)
deriving DecidableEq, Repr

/-- What an operation returns (R57, R58, R118, R125, R140). -/
inductive Result where
  /-- nothing has been returned yet -/
  | nothing
  /-- M2N and its arms -/
  | flag (b : Bool)
  /-- N2M's bytesWritten, "plus that many bytes" (R57) -/
  | count (n : Nat) (bytes : List Byte)
  /-- TICK, ENABLE, ACC.APPEND: returned with no value -/
  | done
  /-- ACC.SIZE -/
  | size (n : Nat)
  /-- ACC.DRAIN, PACK12, SER16 -/
  | bytes (bs : List Byte)
  /-- UNPACK12's pair (A, B) -/
  | samples (a b : Sample12)
  /-- ENC16, DES16 -/
  | sample16 (u : Sample16)
  /-- ENC12, not yet masked (R90, C4) -/
  | integer (z : Int)
  /-- DEC12F, DEC16F, BIQUAD.STEP -/
  | float (f : F32)
  /-- the operation raised a fault and ended with no result (R146) -/
  | fault (x : Raise)
  /-- the block was faulted and refused the operation (R147) -/
  | refused
deriving DecidableEq, Repr

/-- The events of the observable trace (R45). -/
inductive Event where
  /-- a host command and its result -/
  | returned (i : Instr) (r : Result)
  /-- a record whose byte 0 spells no host command, and what became of it (R59) -/
  | illegalRecord (code : Byte) (r : Result)
  /-- the transaction writeEOT and its answer -/
  | writeEot (answer : Bool)
  /-- the transaction writeData and its answer -/
  | writeData (bytes : List Byte) (answer : Bool)
  /-- the transaction read and the bytes it yielded -/
  | read (maxLength : Nat) (bytes : List Byte)
  /-- the host reset the block (R165) -/
  | reset
deriving DecidableEq, Repr

/-- The state. -/
structure State where
  /-- ACC (R13) -/
  acc : List Byte
  /-- the de-emphasis instance (R15) -/
  de : Filter
  /-- the pre-emphasis instance (R15) -/
  pre : Filter
  /-- NET_PRESENT (R21) -/
  netPresent : Bool
  /-- FAULTED (R20) -/
  faulted : Bool
  /-- FAULT_CODE (R20) -/
  faultCode : Byte
  /-- the parameters (R6) -/
  cfg : Params
  /-- the command stream not yet taken (R57) -/
  stream : List Byte
  /-- the host's output buffer, `none` when its reference is absent (R30, R125, log 15) -/
  buf : Option (List Byte)
  /-- the host asks for a reset (R165, log 17) -/
  resetReq : Bool
  /-- what the last operation returned -/
  result : Result
  /-- the collaborator's answers to writeEOT to come (R117) -/
  eotDraws : List Bool
  /-- the collaborator's answers to writeData to come (R117) -/
  dataDraws : List Bool
  /-- the bytes of the collaborator's reads to come (R117) -/
  readDraws : List (List Byte)
  /-- the observable trace, oldest event first (R45) -/
  trace : List Event
  /-- the model's own: the unit-level test port (R56, log 6) -/
  unitStream : List Byte
  /-- the model's own: numbers the free values drawn so far (log 8) -/
  freeCount : Nat
deriving DecidableEq, Repr

/-- Why the machine stops. -/
inductive Fault where
  /-- Raised by `step` when the model's own unit port presents bytes that spell no unit operation (log 6). Safe: no hardware
  behaviour corresponds to it. -/
  | badUnitRecord (reason : Reject)
deriving DecidableEq, Repr

/-- Why the machine has no move. -/
inductive Refusal where
  /-- An instruction with no meaning yet. Safe. No arm of `exec` answers it. -/
  | notModelled (mnemonic : String)
  /-- Answered by N2M when the collaborator's read yields more bytes than were asked for: "outside the contract and the model
  has no move for it" (R117, U16). Safe. -/
  | readTooLong (length : Nat)
deriving DecidableEq, Repr

/-- The machine right after reset with the installed parameters (R26, R166). Values the spec does not give are named in log 1,
8, 11, 12, 15, 17 and 18. -/
def State.reset : State :=
  { acc := [], de := loadFilter installedParams.fp installedParams.de, pre := loadFilter installedParams.fp installedParams.pre,
    netPresent := installedParams.netPresent, faulted := false, faultCode := 0, cfg := installedParams,
    stream := [], buf := some [], resetReq := false, result := .nothing, eotDraws := [], dataDraws := [],
    readDraws := [], trace := [], unitStream := [], freeCount := 0 }

end Sys2Proof.Machine
end

