-- ==== Sys2Proof/Machine/Flags.lean ====
section
/-! DEFINITION. The status flags. The block has no condition codes (spec/10_state.md R12): FAULTED and FAULT_CODE are its only
flag-like state (R20), and this is how they are computed. -/

namespace Sys2Proof.Machine

/-- The codes of 60_exceptions.md R141 to R145. -/
def raiseCode : Raise → Byte
  | .zeroLength => 0x01
  | .zeroCapacity => 0x02
  | .nullArgument _ => 0x03
  | .accUnderflow _ => 0x04
  | .accOverflow _ => 0x05
  | .numericFault _ => 0x06
  | .netAbsent => 0x07
  | .illegalCommand _ => 0x08
  | .configInvalid _ => 0x09

/-- `raise` sets FAULTED and FAULT_CODE (R20, R146). -/
def State.latchFault (x : Raise) (s : State) : State := { s with faulted := true, faultCode := raiseCode x }

end Sys2Proof.Machine
end

