-- ==== Sys2Proof/Machine/Operands.lean ====
section
/-! DEFINITION. Operand assembly from shifts and masks (spec/20_memory.md R32, R33; 30_encoding.md R51, R52, R60), and the
walks over byte sequences that the two pipelines make. -/

namespace Sys2Proof.Machine

/-- The 24-bit word of a triplet, first byte most significant (R32). -/
def tripletValue (t0 t1 t2 : Byte) : BitVec Config.groupBits :=
  (t0.setWidth Config.groupBits <<< 16) ||| (t1.setWidth Config.groupBits <<< 8) ||| t2.setWidth Config.groupBits

/-- UNPACK12's two samples (R60, R81). -/
def unpackTriplet (t0 t1 t2 : Byte) : Sample12 × Sample12 :=
  (((tripletValue t0 t1 t2 >>> Config.modemBits) &&& BitVec.ofNat Config.groupBits Config.modemMask).setWidth Config.modemBits,
   (tripletValue t0 t1 t2 &&& BitVec.ofNat Config.groupBits Config.modemMask).setWidth Config.modemBits)

/-- PACK12's 24-bit word: each integer reduced mod 2^MODEM_BITS = 4096 (R60, R82). -/
def packValue (a b : Int) : BitVec Config.groupBits :=
  ((BitVec.ofInt Config.groupBits (a % 2 ^ Config.modemBits)) <<< Config.modemBits) ||| BitVec.ofInt Config.groupBits (b % 2 ^ Config.modemBits)

/-- PACK12's three bytes (R32, R82). -/
def packTriplet (a b : Int) : List Byte :=
  [((packValue a b >>> 16) &&& 0xFF).setWidth 8, ((packValue a b >>> 8) &&& 0xFF).setWidth 8,
   (packValue a b &&& 0xFF).setWidth 8]

/-- DES16's sample: most significant byte first (R33, R91). -/
def pairSample (p0 p1 : Byte) : Sample16 := (p0.setWidth Config.netBits <<< 8) ||| p1.setWidth Config.netBits

/-- SER16's two bytes (R33, R92). -/
def sampleBytes (u : Sample16) : List Byte := [((u >>> 8) &&& 0xFF).setWidth 8, (u &&& 0xFF).setWidth 8]

/-- The whole 2-byte samples of a network read; a trailing odd byte is discarded (R36, R126). -/
def pairSamples : List Byte → List Sample16
  | p0 :: p1 :: rest => pairSample p0 p1 :: pairSamples rest
  | _ => []

/-- The leading bytes of a buffer replaced, the rest unchanged (R46). -/
def overwriteFront (buf out : List Byte) : List Byte := out ++ buf.drop out.length

end Sys2Proof.Machine
end

