-- ==== Sys2Proof/Machine/Ops.lean ====
section
/-! DEFINITION. The operations every instruction shares: what running a body ends in, fault entry and reset, the accumulator,
the network transactions, and the two ways an operation reports its result. -/

namespace Sys2Proof.Machine

/-- What running the body of an operation ends in. -/
inductive Ran (α : Type) where
  /-- it completed with a value -/
  | ok (value : α) (s : State)
  /-- it raised a fault; `s` is the state at the `raise` -/
  | raised (x : Raise) (s : State)
  /-- the model has no move -/
  | stuck (r : Refusal)

/-- Run one body after another. -/
def Ran.andThen {α β : Type} (m : Ran α) (f : α → State → Ran β) : Ran β :=
  match m with
  | .ok v s => f v s
  | .raised x s => .raised x s
  | .stuck r => .stuck r

/-! ## Fault entry, and the return from it -/

/-- A filter instance with its history replaced. -/
def Filter.withHistory (f : Filter) (x1 x2 y1 y2 : F32) : Filter := { f with x1 := x1, x2 := x2, y1 := y1, y2 := y2 }

/-- An instance whose eleven fields are the free values numbered from `first`. -/
def freeFilter (first n : Nat) : Filter :=
  { b0 := Config.freeField first n, b1 := Config.freeField (first + 1) n, b2 := Config.freeField (first + 2) n,
    a0 := Config.freeField (first + 3) n, a1 := Config.freeField (first + 4) n, a2 := Config.freeField (first + 5) n,
    g := Config.freeField (first + 6) n, x1 := Config.freeField (first + 7) n, x2 := Config.freeField (first + 8) n,
    y1 := Config.freeField (first + 9) n, y2 := Config.freeField (first + 10) n }

/-- A free content of ACC: any bytes of a length that ACC may have, 0 to ACC_DEPTH (R14, U20). -/
def freeAccWithin (depth : Option Nat) (n : Nat) : List Byte :=
  match depth with
  | none => Config.freeAcc n
  | some d => (Config.freeAcc n).take d

/-- The block's state but for FAULTED and FAULT_CODE holds free values: ACC, both instances and NET_PRESENT (R146 "the model
must treat all state other than FAULTED and FAULT_CODE as unspecified after any fault", D11, U20, log 3). -/
def State.unspecify (s : State) : State :=
  { s with
    acc := freeAccWithin s.cfg.accDepth s.freeCount, de := freeFilter 0 s.freeCount, pre := freeFilter 11 s.freeCount,
    netPresent := Config.freeNetPresent s.freeCount, freeCount := s.freeCount + 1 }

/-- Fault entry (R146): FAULTED and FAULT_CODE are latched, the rest of the block's state is unspecified; nothing is saved and no
handler runs. `s` is the state at the `raise`. -/
def State.takeFault (x : Raise) (s : State) : State := s.unspecify.latchFault x

/-- What reset writes (R166), and its configuration check (R167). A violated check raises ConfigInvalid, whose entry leaves all
state but the two fault fields unspecified, whatever reset has written (R146, U20, log 3). The parameters, the ports and what has
been observed stay. -/
def State.load (s : State) : State :=
  let t := { s with
    acc := [], de := loadFilter s.cfg.fp s.cfg.de, pre := loadFilter s.cfg.fp s.cfg.pre, netPresent := s.cfg.netPresent,
    faulted := false, faultCode := 0, resetReq := false }
  match firstInvalid s.cfg with
  | none => { t with result := .nothing }
  | some p => { t.takeFault (.configInvalid p) with result := .fault (.configInvalid p) }

/-- The host's reset: the only return from a fault (R148, R165). -/
def State.restart (s : State) : State := { s.load with trace := s.trace ++ [.reset] }

/-! ## The accumulator (R71 to R73) -/

/-- A length the accumulator may have (R14). -/
def accFits (depth : Option Nat) (n : Nat) : Bool :=
  match depth with
  | none => true
  | some d => decide (n ≤ d)

def State.withAcc (s : State) (acc : List Byte) : State := { s with acc := acc }

/-- ACC.APPEND (R71). -/
def accAppend (bytes : List Byte) (s : State) : Ran Unit :=
  if accFits s.cfg.accDepth (s.acc.length + bytes.length) then .ok () (s.withAcc (s.acc ++ bytes))
  else .raised (.accOverflow (s.acc.length + bytes.length)) s

/-- ACC.SIZE (R72). -/
def accSize (s : State) : Nat := s.acc.length

/-- ACC.DRAIN (R73). -/
def accDrain (n : Nat) (s : State) : Ran (List Byte) :=
  if s.acc.length < n then .raised (.accUnderflow n) s
  else .ok (s.acc.take n) (s.withAcc (s.acc.drop n))

/-! ## The filter instances -/

/-- The instance that an operand names. -/
def State.filter (s : State) : FilterId → Filter
  | .de => s.de
  | .pre => s.pre

/-- The state with that instance replaced; the other is untouched (R18). -/
def State.withFilter (s : State) (id : FilterId) (f : Filter) : State :=
  match id with
  | .de => { s with de := f }
  | .pre => { s with pre := f }

/-! ## The host's output buffer -/

def State.withBuf (s : State) (buf : List Byte) : State := { s with buf := some buf }

/-! ## The network transactions (R117)

Each takes the next scheduled answer, or a free one where none is scheduled (log 8), and is recorded in the trace (R45). -/

def State.logEvent (s : State) (e : Event) : State := { s with trace := s.trace ++ [e] }

/-- writeEOT. -/
def netWriteEot (s : State) : Bool × State :=
  match s.eotDraws with
  | r :: more => (r, { s with eotDraws := more }.logEvent (.writeEot r))
  | [] => (Config.freeEot s.freeCount,
      { s with freeCount := s.freeCount + 1 }.logEvent (.writeEot (Config.freeEot s.freeCount)))

/-- writeData. -/
def netWriteData (bytes : List Byte) (s : State) : Bool × State :=
  match s.dataDraws with
  | r :: more => (r, { s with dataDraws := more }.logEvent (.writeData bytes r))
  | [] => (Config.freeData s.freeCount,
      { s with freeCount := s.freeCount + 1 }.logEvent (.writeData bytes (Config.freeData s.freeCount)))

/-- read. A scheduled read longer than was asked for has no move (U16); a free one is kept within `maxLength` (R117). -/
def netRead (maxLength : Nat) (s : State) : Ran (List Byte) :=
  match s.readDraws with
  | bytes :: more =>
    if maxLength < bytes.length then .stuck (.readTooLong bytes.length)
    else .ok bytes ({ s with readDraws := more }.logEvent (.read maxLength bytes))
  | [] =>
    .ok ((Config.freeRead s.freeCount).take maxLength)
      ({ s with freeCount := s.freeCount + 1 }.logEvent (.read maxLength ((Config.freeRead s.freeCount).take maxLength)))

/-! ## Reporting -/

/-- The result of an operation that is not a host command: only the result port shows it (log 18). -/
def State.yield (s : State) (r : Result) : State := { s with result := r }

/-- The result of a host command, also an event of the trace (R45). -/
def State.report (s : State) (i : Instr) (r : Result) : State := (s.yield r).logEvent (.returned i r)

/-- A host command (R116): refused while FAULTED (R147); else its body runs, and a fault it raises is taken (R146). -/
def runCommand (i : Instr) (body : State → Ran Result) (s : State) : Host.Outcome State Fault Refusal :=
  if s.faulted then .next (s.report i .refused)
  else match body s with
    | .ok r t => .next (t.report i r)
    | .raised x t => .next ((t.takeFault x).report i (.fault x))
    | .stuck r => .refused r

/-- An arm of M2N or a functional unit run on its own: as a host command, but for the trace (log 5, log 18). -/
def runInner (body : State → Ran Result) (s : State) : Host.Outcome State Fault Refusal :=
  if s.faulted then .next (s.yield .refused)
  else match body s with
    | .ok r t => .next (t.yield r)
    | .raised x t => .next ((t.takeFault x).yield (.fault x))
    | .stuck r => .refused r

end Sys2Proof.Machine
end

