-- ==== Sys2Proof/Machine/Accumulator.lean ====
section
/-! DEFINITION. The Byte Accumulator's operations (spec/40_byte_accumulator.md). -/

namespace Sys2Proof.Machine

/-- ACC.APPEND (R71). -/
def execAccAppend (bytes : List Byte) (s : State) : Host.Outcome State Fault Refusal :=
  runInner (fun t => (accAppend bytes t).andThen fun _ u => .ok .done u) s

/-- ACC.SIZE (R72). -/
def execAccSize (s : State) : Host.Outcome State Fault Refusal :=
  runInner (fun t => .ok (.size (accSize t)) t) s

/-- ACC.DRAIN (R73). -/
def execAccDrain (n : Nat) (s : State) : Host.Outcome State Fault Refusal :=
  runInner (fun t => (accDrain n t).andThen fun d u => .ok (.bytes d) u) s

end Sys2Proof.Machine
end

