-- ==== Sys2Proof/Machine/Biquad.lean ====
section
/-! DEFINITION. The Emphasis Filter's operation (spec/42_emphasis_filter.md). -/

namespace Sys2Proof.Machine

/-- The raw output y[n]: products formed and summed left to right, then divided by `a0` (R104, R105). -/
def filterRaw (fp : Fp) (f : Filter) (x : F32) : F32 :=
  let acc := fp.mul f.b0 x
  let acc := fp.add acc (fp.mul f.b1 f.x1)
  let acc := fp.add acc (fp.mul f.b2 f.x2)
  let acc := fp.sub acc (fp.mul f.a1 f.y1)
  let acc := fp.sub acc (fp.mul f.a2 f.y2)
  fp.div acc f.a0

/-- The histories shift by one; what is stored is the raw output, before the gain (R106). -/
def filterShift (f : Filter) (x y : F32) : Filter := f.withHistory x f.x1 y f.y1

/-- BIQUAD.STEP: the returned value and the instance after it (R104). -/
def filterStep (fp : Fp) (f : Filter) (x : F32) : F32 × Filter :=
  (fp.mul (filterRaw fp f x) f.g, filterShift f x (filterRaw fp f x))

/-- The steps of a sequence of samples, in order (R109). -/
def filterRun (fp : Fp) (f : Filter) : List F32 → List F32 × Filter
  | [] => ([], f)
  | x :: xs =>
    let (y, f1) := filterStep fp f x
    let (ys, f2) := filterRun fp f1 xs
    (y :: ys, f2)

/-- BIQUAD.STEP on an instance (R104). -/
def execBiquadStep (id : FilterId) (x : F32) (s : State) : Host.Outcome State Fault Refusal :=
  runInner (fun t =>
    .ok (.float (filterStep t.cfg.fp (t.filter id) x).1) (t.withFilter id (filterStep t.cfg.fp (t.filter id) x).2)) s

end Sys2Proof.Machine
end

