-- ==== Sys2Proof/Machine/Codec.lean ====
section
/-! DEFINITION. The Sample Codec's operations (spec/41_sample_codec.md). -/

namespace Sys2Proof.Machine

/-! ## The conversions -/

/-- `decode12ToFloat` (R84). -/
def decode12 (fp : Fp) (u : Sample12) : F32 :=
  fp.div (fp.sub (fp.ofInt u.toNat) (fp.ofInt Config.mid12)) (fp.ofInt Config.mid12)

/-- `decode16ToFloat` (R89). -/
def decode16 (fp : Fp) (u : Sample16) : F32 := fp.sub (fp.div (fp.ofInt u.toNat) (fp.ofInt Config.scale16)) fp.one

/-- The value that the encodes truncate: `(f + 1.0) * scale + 0.5`, left to right (R85, R88, R90). -/
def encodeScaled (fp : Fp) (scale : Int) (f : F32) : F32 := fp.add (fp.mul (fp.add f fp.one) (fp.ofInt scale)) fp.half

/-- `encodeFloatTo12`, not yet masked (R90, C4). The error is the value that is no number (R143). -/
def encode12 (fp : Fp) (f : F32) : Except F32 Int := fp.toInt (encodeScaled fp Config.mid12 f)

/-- `encodeFloatTo16`: the truncated integer mod 2^NET_BITS = 65536 (R85). -/
def encode16 (fp : Fp) (f : F32) : Except F32 Sample16 :=
  match fp.toInt (encodeScaled fp Config.scale16 f) with
  | .ok z => .ok (BitVec.ofInt Config.netBits (z % 2 ^ Config.netBits))
  | .error bits => .error bits

/-- A conversion's error is the fault NumericFault (R87, R143). -/
def numeric {α : Type} (s : State) (r : Except F32 α) (f : α → Result) : Ran Result :=
  match r with
  | .ok v => .ok (f v) s
  | .error bits => .raised (.numericFault bits) s

/-! ## The units -/

/-- UNPACK12 (R81). -/
def execUnpack12 (t0 t1 t2 : Byte) (s : State) : Host.Outcome State Fault Refusal :=
  runInner (fun t => .ok (.samples (unpackTriplet t0 t1 t2).1 (unpackTriplet t0 t1 t2).2) t) s

/-- PACK12 (R82). -/
def execPack12 (a b : Int) (s : State) : Host.Outcome State Fault Refusal :=
  runInner (fun t => .ok (.bytes (packTriplet a b)) t) s

/-- DEC12F (R84). -/
def execDec12f (u : Sample12) (s : State) : Host.Outcome State Fault Refusal :=
  runInner (fun t => .ok (.float (decode12 t.cfg.fp u)) t) s

/-- ENC16 (R85). -/
def execEnc16 (f : F32) (s : State) : Host.Outcome State Fault Refusal :=
  runInner (fun t => numeric t (encode16 t.cfg.fp f) .sample16) s

/-- DEC16F (R89). -/
def execDec16f (u : Sample16) (s : State) : Host.Outcome State Fault Refusal :=
  runInner (fun t => .ok (.float (decode16 t.cfg.fp u)) t) s

/-- ENC12 (R90). -/
def execEnc12 (f : F32) (s : State) : Host.Outcome State Fault Refusal :=
  runInner (fun t => numeric t (encode12 t.cfg.fp f) .integer) s

/-- DES16 (R91). -/
def execDes16 (p0 p1 : Byte) (s : State) : Host.Outcome State Fault Refusal :=
  runInner (fun t => .ok (.sample16 (pairSample p0 p1)) t) s

/-- SER16 (R92). -/
def execSer16 (u : Sample16) (s : State) : Host.Outcome State Fault Refusal :=
  runInner (fun t => .ok (.bytes (sampleBytes u)) t) s

end Sys2Proof.Machine
end

