-- ==== Sys2Proof/Machine/Orchestrator.lean ====
section
/-! DEFINITION. The Control Orchestrator's commands and the arms of M2N (spec/43_control_orchestrator.md). -/

namespace Sys2Proof.Machine

/-! ## The modem-to-network pipeline -/

/-- One sample of the pipeline: decode, filter, encode, serialise (R121). The error is the value that is no number. -/
def sampleToNet (fp : Fp) (f : Filter) (u : Sample12) : Except F32 (List Byte × Filter) :=
  match encode16 fp (filterStep fp f (decode12 fp u)).1 with
  | .ok w => .ok (sampleBytes w, (filterStep fp f (decode12 fp u)).2)
  | .error bits => .error bits

/-- One group: sample A before sample B (R96, R121). -/
def groupToNet (fp : Fp) (f : Filter) (t0 t1 t2 : Byte) : Except F32 (List Byte × Filter) :=
  (sampleToNet fp f (unpackTriplet t0 t1 t2).1).bind fun a =>
    (sampleToNet fp a.2 (unpackTriplet t0 t1 t2).2).bind fun b => .ok (a.1 ++ b.1, b.2)

/-- The groups of the drained bytes in stream order (R121). Fewer than three bytes are no group. -/
def groupsToNet (fp : Fp) (f : Filter) : List Byte → Except F32 (List Byte × Filter)
  | t0 :: t1 :: t2 :: rest =>
    (groupToNet fp f t0 t1 t2).bind fun g => (groupsToNet fp g.2 rest).bind fun r => .ok (g.1 ++ r.1, r.2)
  | _ => .ok ([], f)

/-- How many bytes a DATA command drains: at most DRAIN_CAP, rounded down to whole groups (R121). -/
def drainAmount (s : State) : Nat :=
  min (accSize s) s.cfg.drainCap - min (accSize s) s.cfg.drainCap % Config.groupBytes

/-- The pipeline on the drained bytes, then the one network write (R121). At the `raise` ACC is already drained (R146). -/
def sendGroups (d : List Byte) (s : State) : Ran Result :=
  match groupsToNet s.cfg.fp s.de d with
  | .error bits => .raised (.numericFault bits) s
  | .ok (out, f) =>
    let (answer, t) := netWriteData out (s.withFilter .de f)
    .ok (.flag answer) t

/-! ## The arms of M2N -/

/-- M2N.HEADER (R119). -/
def armHeader (s : State) : Ran Result := .ok (.flag true) s

/-- M2N.EOT (R120). -/
def armEot (s : State) : Ran Result :=
  if s.netPresent then
    let (answer, t) := netWriteEot s
    .ok (.flag answer) t
  else .raised .netAbsent s

/-- M2N.DATA (R121). -/
def armData (payload : List Byte) (s : State) : Ran Result :=
  if s.netPresent then
    (accAppend payload s).andThen fun _ t =>
      if drainAmount t < Config.groupBytes then .ok (.flag true) t
      else (accDrain (drainAmount t) t).andThen sendGroups
  else .ok (.flag true) s

/-- M2N.OTHER (R122). -/
def armOther (s : State) : Ran Result := .ok (.flag false) s

/-- M2N.HEADER on its own (R119). Its payload is ignored. -/
def execM2nHeader (_payload : List Byte) (s : State) : Host.Outcome State Fault Refusal := runInner armHeader s

/-- M2N.EOT on its own (R120). Its payload is ignored. -/
def execM2nEot (_payload : List Byte) (s : State) : Host.Outcome State Fault Refusal := runInner armEot s

/-- M2N.DATA on its own (R121). -/
def execM2nData (payload : List Byte) (s : State) : Host.Outcome State Fault Refusal := runInner (armData payload) s

/-- M2N.OTHER on its own (R122). -/
def execM2nOther (_tag : Byte) (_payload : List Byte) (s : State) : Host.Outcome State Fault Refusal := runInner armOther s

/-! ## M2N -/

/-- The tag dispatch (R118). -/
def dispatchTag (tag : Byte) (payload : List Byte) (s : State) : Ran Result :=
  match classifyTag s.cfg.tags tag with
  | .header => armHeader s
  | .eot => armEot s
  | .data => armData payload s
  | .other => armOther s

/-- The body of M2N (R118, R151). -/
def bodyM2n (chunk : Option (List Byte)) (s : State) : Ran Result :=
  match chunk with
  | none => .raised (.nullArgument .chunk) s
  | some [] => .raised .zeroLength s
  | some (tag :: payload) => dispatchTag tag payload s

/-- M2N (R118). -/
def execM2n (chunk : Option (List Byte)) (s : State) : Host.Outcome State Fault Refusal :=
  runCommand (.m2n chunk) (bodyM2n chunk) s

/-! ## The network-to-modem pipeline -/

/-- Pairs of filtered samples packed in order, the earlier in lane A (R96, R125): the bytes written, and the first value that
is no number, at which packing stops. An unpaired last sample is not packed (R126). -/
def packPairs (fp : Fp) : List F32 → List Byte × Option F32
  | fa :: fb :: rest =>
    match encode12 fp fa with
    | .error bits => ([], some bits)
    | .ok a =>
      match encode12 fp fb with
      | .error bits => ([], some bits)
      | .ok b => (packTriplet a b ++ (packPairs fp rest).1, (packPairs fp rest).2)
  | _ => ([], none)

/-- How many groups are packed: as many as the samples and the clamped capacity allow (R125). -/
def packCount (samples capacity outCapMax : Nat) : Nat :=
  min (samples / Config.groupSamples) (min capacity outCapMax / Config.groupBytes)

/-- Every whole sample of the read is filtered, and then the leading pairs are packed into the buffer (R125, R126). -/
def receiveSamples (buf : List Byte) (capacity : Nat) (rd : List Byte) (s : State) : Ran Result :=
  let (fs, f) := filterRun s.cfg.fp s.pre ((pairSamples rd).map (decode16 s.cfg.fp))
  let groups := packCount fs.length capacity s.cfg.outCapMax
  let (out, bad) := packPairs s.cfg.fp (fs.take (Config.groupSamples * groups))
  let t := (s.withFilter .pre f).withBuf (overwriteFront buf out)
  match bad with
  | none => .ok (.count (Config.groupBytes * groups) out) t
  | some bits => .raised (.numericFault bits) t

/-- The body of N2M (R125, R151). -/
def bodyN2m (capacity : BitVec 16) (s : State) : Ran Result :=
  match s.buf with
  | none => .raised (.nullArgument .outputBuffer) s
  | some buf =>
    if capacity = 0 then .raised .zeroCapacity s
    else if s.netPresent then
      (netRead s.cfg.netReadMax s).andThen fun rd t =>
        if rd = [] then .ok (.count 0 []) t else receiveSamples buf capacity.toNat rd t
    else .ok (.count 0 []) s

/-- N2M (R125). -/
def execN2m (capacity : BitVec 16) (s : State) : Host.Outcome State Fault Refusal :=
  runCommand (.n2m capacity) (bodyN2m capacity) s

/-! ## The lifecycle hooks -/

/-- TICK (R129). -/
def execTick (ms : BitVec 32) (s : State) : Host.Outcome State Fault Refusal :=
  runCommand (.tick ms) (fun t => .ok .done t) s

/-- ENABLE (R130). -/
def execEnable (flag : Byte) (s : State) : Host.Outcome State Fault Refusal :=
  runCommand (.enable flag) (fun t => .ok .done t) s

end Sys2Proof.Machine
end

