-- ==== Sys2Proof/Machine/Dispatch.lean ====
section
/-! DEFINITION. One arm per constructor of Instr. -/

namespace Sys2Proof.Machine

def exec (i : Instr) (s : State) : Host.Outcome State Fault Refusal :=
  match i with
  | .m2n chunk => Sys2Proof.Machine.execM2n chunk s
  | .n2m capacity => Sys2Proof.Machine.execN2m capacity s
  | .tick ms => Sys2Proof.Machine.execTick ms s
  | .enable flag => Sys2Proof.Machine.execEnable flag s
  | .m2nHeader payload => Sys2Proof.Machine.execM2nHeader payload s
  | .m2nData payload => Sys2Proof.Machine.execM2nData payload s
  | .m2nEot payload => Sys2Proof.Machine.execM2nEot payload s
  | .m2nOther tag payload => Sys2Proof.Machine.execM2nOther tag payload s
  | .accAppend bytes => Sys2Proof.Machine.execAccAppend bytes s
  | .accSize => Sys2Proof.Machine.execAccSize s
  | .accDrain n => Sys2Proof.Machine.execAccDrain n s
  | .unpack12 t0 t1 t2 => Sys2Proof.Machine.execUnpack12 t0 t1 t2 s
  | .pack12 a b => Sys2Proof.Machine.execPack12 a b s
  | .dec12f u => Sys2Proof.Machine.execDec12f u s
  | .enc16 f => Sys2Proof.Machine.execEnc16 f s
  | .dec16f u => Sys2Proof.Machine.execDec16f u s
  | .enc12 f => Sys2Proof.Machine.execEnc12 f s
  | .des16 p0 p1 => Sys2Proof.Machine.execDes16 p0 p1 s
  | .ser16 u => Sys2Proof.Machine.execSer16 u s
  | .biquadStep f x => Sys2Proof.Machine.execBiquadStep f x s

end Sys2Proof.Machine
end

