-- ==== Sys2Proof/Machine/Fetch.lean ====
section
/-! DEFINITION. What the sequencer takes next from its ports. The block has no program counter and fetches no instructions
(spec/10_state.md R11): a "fetch" is taking one command record from the stream (30_encoding.md R57). -/

namespace Sys2Proof.Machine

/-- What a step is to do. -/
inductive Fetched where
  /-- run an operation in this state -/
  | run (i : Instr) (s : State)
  /-- the step is this state: a reset, an illegal record, or waiting for a command -/
  | become (s : State)
  /-- the unit port spells no unit operation -/
  | stop (f : Fault)

/-- A record whose byte 0 spells no host command: IllegalCommand, or refused while FAULTED (R59, R145, R147, R151). -/
def State.illegalCommand (s : State) (code : Byte) : State :=
  if s.faulted then (s.yield .refused).logEvent (.illegalRecord code .refused)
  else
    ((s.takeFault (.illegalCommand code)).yield (.fault (.illegalCommand code))).logEvent
      (.illegalRecord code (.fault (.illegalCommand code)))

/-- From the host port: one record is taken. An illegal record is its byte 0 (log 7); an empty or incomplete stream waits
(R168, log 1). -/
def fetchHost (s : State) : Fetched :=
  match decodeHost s.stream with
  | .ok (i, rest) => .run i { s with stream := rest }
  | .error (.illegalCode c) => .become ({ s with stream := s.stream.drop 1 }.illegalCommand c)
  | .error _ => .become s

/-- From the unit port (log 6). -/
def fetchUnit (s : State) : Fetched :=
  match decodeUnit s.unitStream with
  | .ok (i, rest) => .run i { s with unitStream := rest }
  | .error e => .stop (.badUnitRecord e)

/-- The reset input first, then the unit port where it presents anything, then the command stream. -/
def fetch (s : State) : Fetched :=
  if s.resetReq then .become s.restart
  else match s.unitStream with
    | [] => fetchHost s
    | _ :: _ => fetchUnit s

/-- An opcode-table word presented as the next record, at the port of its level (log 24). -/
def State.present (s : State) (nbits w : Nat) : State :=
  let bs := tableBytes nbits w
  match tableLevel bs with
  | .unit => { s with unitStream := bs, resetReq := false }
  | .host => { s with stream := bs, unitStream := [], resetReq := false }
  | .arm => { s with stream := bs, unitStream := [], resetReq := false }

end Sys2Proof.Machine
end

