-- ==== Sys2Proof/Machine/Step.lean ====
section
/-! DEFINITION. One step: one command, run to completion (spec/10_state.md R11, 20_memory.md R38). -/

namespace Sys2Proof.Machine

/-- One step of the block. -/
def step (s : State) : Host.Outcome State Fault Refusal :=
  match fetch s with
  | .run i t => exec i t
  | .become t => .next t
  | .stop f => .fault f

/-- The opcode-table word as the next operation that `step` runs (log 24). -/
def State.withFetchWord (s : State) (nbits w : Nat) : State := s.present nbits w

end Sys2Proof.Machine
end

