-- ==== Sys2Proof/Safety.lean ====
section
/-! DEFINITION. What counts as a safe run, and the terms in which claims about the block are stated. -/

namespace Sys2Proof.Machine

/-! ## Safe states -/

/-- No fault is recorded: the premise of a claim about a run (spec/60_exceptions.md R147). -/
def State.noFault (s : State) : Bool := !s.faulted

/-- The parameters pass every check of reset (70_reset_and_hazards.md R167). -/
def ConfigLegal (p : Params) : Prop :=
  filterLegal p.fp p.de = true ∧ filterLegal p.fp p.pre = true ∧ p.tags.legal = true ∧
    3 ≤ p.drainCap ∧ 3 ≤ p.outCapMax ∧ 4 ≤ p.netReadMax

/-- ACC is within its depth (10_state.md R14). -/
def AccWithinDepth (s : State) : Prop := ∀ depth, s.cfg.accDepth = some depth → s.acc.length ≤ depth

/-- FAULT_CODE is 0 in a block that runs and one of the nine codes in one that does not (R20, R141 to R145). -/
def FaultCodeAgrees (s : State) : Prop :=
  (s.faulted = false → s.faultCode = 0) ∧ (s.faulted = true → 1 ≤ s.faultCode.toNat ∧ s.faultCode.toNat ≤ 9)

/-- The seven constants of an instance are those its parameters give (R16, R166). -/
def Filter.hasConstants (f : Filter) (fp : Fp) (p : FilterParams) : Prop :=
  f.b0 = p.b0 ∧ f.b1 = p.b1 ∧ f.b2 = p.b2 ∧ f.a0 = p.a0 ∧ f.a1 = p.a1 ∧ f.a2 = p.a2 ∧ f.g = linearGain fp p.gain

/-- The constants and NET_PRESENT are the parameters' (R16, R21, R26). -/
def ConfigLoaded (s : State) : Prop :=
  s.de.hasConstants s.cfg.fp s.cfg.de ∧ s.pre.hasConstants s.cfg.fp s.cfg.pre ∧ s.netPresent = s.cfg.netPresent

/-- What every step keeps: ACC is within its depth, whether the block runs or is faulted (R14), FAULT_CODE agrees with FAULTED,
and a block that runs has a legal configuration (R19, R167) and its constants loaded. Of what else a faulted block holds nothing
is said, as R146 asks. -/
def BlockInv (s : State) : Prop :=
  AccWithinDepth s ∧ FaultCodeAgrees s ∧ (s.faulted = false → ConfigLoaded s ∧ ConfigLegal s.cfg)

/-- The value of a tag parameter. -/
def tagValue (t : Tags) : TagName → Byte
  | .header => t.header
  | .data => t.data
  | .eot => t.eot

/-- A constant's value (R16, R102). -/
def constValue (fp : Fp) (p : FilterParams) : FilterConst → F32
  | .b0 => p.b0
  | .b1 => p.b1
  | .b2 => p.b2
  | .a0 => p.a0
  | .a1 => p.a1
  | .a2 => p.a2
  | .g => linearGain fp p.gain

/-- The parameters of the instance that an operand names. -/
def paramsOf (p : Params) : FilterId → FilterParams
  | .de => p.de
  | .pre => p.pre

/-- The check of R167 that a parameter violates. -/
def ConfigParam.violated (p : Params) : ConfigParam → Prop
  | .filterConst f c => p.fp.isFinite (constValue p.fp (paramsOf p f) c) = false ∨
    (c = .a0 ∧ p.fp.isZero (constValue p.fp (paramsOf p f) c) = true)
  | .tagPair a b => a ≠ b ∧ tagValue p.tags a = tagValue p.tags b
  | .tag t => tagValue p.tags t = 0x7F
  | .drainCap => p.drainCap < 3
  | .outCapMax => p.outCapMax < 3
  | .netReadMax => p.netReadMax < 4

/-! ## Outcomes -/

/-- The next state, if there is one. -/
def nextOf : Host.Outcome State Fault Refusal → Option State
  | .next t => some t
  | .fault _ => none
  | .refused _ => none

/-- Operations one after another, stopping where one has no next state. -/
def execAll : List Instr → State → Option State
  | [], s => some s
  | i :: is, s => (nextOf (exec i s)).bind (execAll is)

/-- What fault entry fixes (R146): the two fault fields and the outcome. What is no state of the block is as before; the block's
other state is unspecified and not spoken of. -/
def FaultEntered (code : Byte) (x : Raise) (s t : State) : Prop :=
  t.faulted = true ∧ t.faultCode = code ∧ t.result = .fault x ∧ t.cfg = s.cfg ∧ t.stream = s.stream ∧ t.buf = s.buf ∧
    t.resetReq = s.resetReq ∧ t.eotDraws = s.eotDraws ∧ t.dataDraws = s.dataDraws ∧ t.readDraws = s.readDraws ∧
    t.unitStream = s.unitStream

/-- The operation ends in the fault `x` with its code and issues no network transaction (R146). -/
def EndsInFault (i : Instr) (code : Byte) (x : Raise) (s : State) : Prop :=
  ∃ t, exec i s = .next t ∧ FaultEntered code x s t ∧
    t.trace = s.trace ++ (if i.level = .host then [.returned i (.fault x)] else [])

/-- What the collaborator answers to a read in the state `s`, and the state after it but for the trace: the scheduled bytes if
they are no more than was asked for, a free value where none are scheduled (R117, log 8). -/
def ReadYields (s : State) (rd : List Byte) (t : State) : Prop :=
  (∃ more, s.readDraws = rd :: more ∧ rd.length ≤ s.cfg.netReadMax ∧ t = { s with readDraws := more }) ∨
  (s.readDraws = [] ∧ rd = (Config.freeRead s.freeCount).take s.cfg.netReadMax ∧ t = { s with freeCount := s.freeCount + 1 })

/-! ## What an observer sees -/

/-- The bytes handed to the network, in order (R45). -/
def writtenBytes : List Event → List Byte
  | [] => []
  | .writeData bs _ :: es => bs ++ writtenBytes es
  | _ :: es => writtenBytes es

/-- An event that is a network transaction (R45). -/
def Event.isTransaction : Event → Bool
  | .writeEot _ => true
  | .writeData _ _ => true
  | .read _ _ => true
  | .returned _ _ => false
  | .illegalRecord _ _ => false
  | .reset => false

/-! ## Sizes and streams -/

/-- The bytes a DATA command drains from `total` buffered bytes under the cap (R121, R123). -/
def drainedOf (total cap : Nat) : Nat := 3 * (min total cap / 3)

/-- The samples of whole triplets, A before B (R51, R96). -/
def tripletSamples : List Byte → List Sample12
  | t0 :: t1 :: t2 :: rest => (unpackTriplet t0 t1 t2).1 :: (unpackTriplet t0 t1 t2).2 :: tripletSamples rest
  | _ => []

/-- ACC.DRAIN of each size in turn: the bytes drained, in order, and the state after (R74). -/
def drainAll : List Nat → State → Option (List Byte × State)
  | [], s => some ([], s)
  | n :: ns, s =>
    match accDrain n s with
    | .ok d t => (drainAll ns t).map fun r => (d ++ r.1, r.2)
    | .raised _ _ => none
    | .stuck _ => none

/-! ## Values -/

/-- `m` is the magnitude nearest to `n / d` units of 2^-149, ties to even, `infMag` standing for 2^128 and above (R7, D4). -/
def NearestMag (n d m : Nat) : Prop :=
  m ≤ infMag ∧ ∀ c, c ≤ infMag → c ≠ m →
    ((magUnits m * d : Int) - n).natAbs < ((magUnits c * d : Int) - n).natAbs ∨
      (((magUnits m * d : Int) - n).natAbs = ((magUnits c * d : Int) - n).natAbs ∧ m % 2 = 0)

/-- `m` is the magnitude nearest to the real number `x`, ties to even (R102). -/
def NearestToReal (x : ℝ) (m : Nat) : Prop :=
  m ≤ infMag ∧ ∀ c, c ≤ infMag → c ≠ m →
    |(magUnits m : ℝ) / 2 ^ unitBits - x| < |(magUnits c : ℝ) / 2 ^ unitBits - x| ∨
      (|(magUnits m : ℝ) / 2 ^ unitBits - x| = |(magUnits c : ℝ) / 2 ^ unitBits - x| ∧ m % 2 = 0)

/-- The four history values are numerically zero (R107). -/
def Filter.silent (f : Filter) (fp : Fp) : Bool := fp.isZero f.x1 && fp.isZero f.x2 && fp.isZero f.y1 && fp.isZero f.y2

/-- The seven constants are finite and `a0` is not zero (R16, R19). -/
def Filter.legal (f : Filter) (fp : Fp) : Bool :=
  fp.isFinite f.b0 && fp.isFinite f.b1 && fp.isFinite f.b2 && fp.isFinite f.a0 && fp.isFinite f.a1 && fp.isFinite f.a2 &&
    fp.isFinite f.g && !fp.isZero f.a0

/-- The four history values are finite (R176). -/
def Filter.historyFinite (f : Filter) (fp : Fp) : Bool :=
  fp.isFinite f.x1 && fp.isFinite f.x2 && fp.isFinite f.y1 && fp.isFinite f.y2

end Sys2Proof.Machine
end

