-- ==== Sys2Proof/Certificates/Slice0/Obligations.lean ====
section
/-! DEFINITION. The statements for the provers, from the numbered rules of spec/. -/

open Sys2Proof Sys2Proof.Machine

/-! ## Taking a command -/

/-- When the stream's front spells a host command, the step is that command's `exec` with its record taken (30_encoding.md R57,
10_state.md R11); no reset is asked for and the model's own unit port is empty. When the unit port (log 6) presents a unit
operation, the step is that operation's `exec`. -/
def Obligations.StepRunsTheDecodedOperation : Prop :=
  ∀ (s : State) (i : Instr) (rest : List Byte), s.resetReq = false →
    (s.unitStream = [] → decodeHost s.stream = .ok (i, rest) → step s = exec i { s with stream := rest }) ∧
    (s.unitStream ≠ [] → decodeUnit s.unitStream = .ok (i, rest) → step s = exec i { s with unitStream := rest })

/-- The model's choice (log 1): with no whole command presented the block waits, unchanged (70_reset_and_hazards.md R168 "waits
for its first command"). -/
def Obligations.BlockWaitsForACommand : Prop :=
  ∀ s : State, s.resetReq = false → s.unitStream = [] →
    (s.stream = [] ∨ ∃ c, decodeHost s.stream = .error (.incomplete c)) → step s = .next s

/-- A record whose byte 0 is not 0x00 to 0x03 raises IllegalCommand (R59, R145, the spec's decision D2), or is refused while
FAULTED (R147, R151). That the record taken is its one byte is the model's choice (log 7). -/
def Obligations.IllegalRecordRaisesIllegalCommand : Prop :=
  ∀ (s : State) (c : Byte) (rest : List Byte),
    s.resetReq = false → s.unitStream = [] → s.stream = c :: rest →
    c ≠ 0x00 → c ≠ 0x01 → c ≠ 0x02 → c ≠ 0x03 →
    (s.faulted = false → ∃ t, step s = .next t ∧ FaultEntered 0x08 (.illegalCommand c) { s with stream := rest } t ∧
      t.trace = s.trace ++ [.illegalRecord c (.fault (.illegalCommand c))]) ∧
    (s.faulted = true → step s = .next { s with
      stream := rest, result := .refused, trace := s.trace ++ [.illegalRecord c .refused] })

/-! ## Encodings -/

/-- Words written out from the encodings of R56 and R57 decode to the operations they stand for. -/
def Obligations.WrittenOutRecordsDecode : Prop :=
  decodeHost [0x00, 0x00, 0x03, 0x00, 0xAA, 0xBB] = .ok (.m2n (some [0x00, 0xAA, 0xBB]), []) ∧
  decodeHost [0x01, 0x01, 0x2C] = .ok (.n2m 300, []) ∧
  decodeHost [0x02, 0x00, 0x00, 0x00, 0x14] = .ok (.tick 20, []) ∧
  decodeHost [0x03, 0x00] = .ok (.enable 0, []) ∧
  decodeTableWord 8 0x11 = some .accSize ∧
  decodeTableWord 16 0x0130 = some (.biquadStep .pre 0) ∧
  decodeTableWord 32 0x56341220 = some (.unpack12 0x12 0x34 0x56)

/-- Decoding an encoded well-formed operation gives it back, whatever follows it: host commands (R57), unit records (log 6) and,
alone in its chunk, an arm of M2N (R53, R54). -/
def Obligations.DecodeInvertsEncode : Prop :=
  ∀ (t : Tags) (i : Instr) (rest : List Byte), t.legal = true → i.wellFormed t = true →
    (i.level ≠ .arm → decode t i.level (encode t i ++ rest) = .ok (i, rest)) ∧
    (i.level = .arm → decode t .arm (encode t i) = .ok (i, []))

/-- Encoding a decoded operation gives back the bytes that were taken: no two byte spellings of one operation. -/
def Obligations.EncodeInvertsDecode : Prop :=
  ∀ (t : Tags) (l : Level) (bs rest : List Byte) (i : Instr), t.legal = true → decode t l bs = .ok (i, rest) →
    i.level = l ∧ encode t i ++ rest = bs ∧ (l ≠ .arm → i.wellFormed t = true)

/-- Byte 0 of the chunk selects HEADER, EOT, DATA or, for every other value, OTHER; 0x7F is always OTHER (R54, the spec's
decision D3). -/
def Obligations.TagSelectsExactlyOneArm : Prop :=
  ∀ (t : Tags) (tag : Byte), t.legal = true →
    (classifyTag t tag = .header ↔ tag = t.header) ∧
    (classifyTag t tag = .eot ↔ tag = t.eot) ∧
    (classifyTag t tag = .data ↔ tag = t.data) ∧
    (classifyTag t tag = .other ↔ tag ≠ t.header ∧ tag ≠ t.eot ∧ tag ≠ t.data) ∧
    classifyTag t 0x7F = .other

/-! ## Faults -/

/-- While FAULTED every command is refused: nothing but the port shows it (R147, the spec's decision D11). That arms and units
run on their own are refused too is the model's reading (log 5). -/
def Obligations.FaultedBlockRefusesEveryOperation : Prop :=
  ∀ (i : Instr) (s : State), s.faulted = true →
    (i.level = .host → exec i s = .next { s with
      result := .refused, trace := s.trace ++ [.returned i .refused] }) ∧
    (i.level ≠ .host → exec i s = .next { s with result := .refused })

/-- The precondition violations, checked before any state is read or written and whether or not the collaborator is present
(R116, R141, R151, the spec's decisions D11 and D14): at the raise all state is as before the command, and the command ends in
the fault (R146). -/
def Obligations.PreconditionViolationsFailFast : Prop :=
  ∀ s : State, s.faulted = false →
    (bodyM2n (some []) s = .raised .zeroLength s ∧ EndsInFault (.m2n (some [])) 0x01 .zeroLength s) ∧
    (bodyM2n none s = .raised (.nullArgument .chunk) s ∧ EndsInFault (.m2n none) 0x03 (.nullArgument .chunk) s) ∧
    (s.buf ≠ none → bodyN2m 0 s = .raised .zeroCapacity s ∧ EndsInFault (.n2m 0) 0x02 .zeroCapacity s) ∧
    (s.buf = none → ∀ c, bodyN2m c s = .raised (.nullArgument .outputBuffer) s ∧
      EndsInFault (.n2m c) 0x03 (.nullArgument .outputBuffer) s)

/-- A step of a faulted block without a reset keeps FAULTED and FAULT_CODE, changes nothing else of the block, and issues no
network transaction (R20, R147, R148, the spec's decision D11). -/
def Obligations.FaultIsStickyUntilReset : Prop :=
  ∀ s t : State, s.faulted = true → s.resetReq = false → step s = .next t →
    t.faulted = true ∧ t.faultCode = s.faultCode ∧ t.acc = s.acc ∧ t.de = s.de ∧ t.pre = s.pre ∧
    t.netPresent = s.netPresent ∧ t.buf = s.buf ∧ t.eotDraws = s.eotDraws ∧ t.dataDraws = s.dataDraws ∧
    t.readDraws = s.readDraws ∧ ∃ es, t.trace = s.trace ++ es ∧ ∀ e ∈ es, e.isTransaction = false

/-! ## Reset -/

/-- Reset with a legal configuration writes exactly what R166 lists (the spec's decision D18); the ports and the observed trace
are the model's and stay (log 17). -/
def Obligations.ResetWritesTheListedState : Prop :=
  ∀ s : State, s.resetReq = true → ConfigLegal s.cfg →
    step s = .next { s with
      acc := []
      de := { b0 := s.cfg.de.b0, b1 := s.cfg.de.b1, b2 := s.cfg.de.b2, a0 := s.cfg.de.a0, a1 := s.cfg.de.a1,
              a2 := s.cfg.de.a2, g := linearGain s.cfg.fp s.cfg.de.gain,
              x1 := s.cfg.fp.zero, x2 := s.cfg.fp.zero, y1 := s.cfg.fp.zero, y2 := s.cfg.fp.zero }
      pre := { b0 := s.cfg.pre.b0, b1 := s.cfg.pre.b1, b2 := s.cfg.pre.b2, a0 := s.cfg.pre.a0, a1 := s.cfg.pre.a1,
               a2 := s.cfg.pre.a2, g := linearGain s.cfg.fp s.cfg.pre.gain,
               x1 := s.cfg.fp.zero, x2 := s.cfg.fp.zero, y1 := s.cfg.fp.zero, y2 := s.cfg.fp.zero }
      netPresent := s.cfg.netPresent, faulted := false, faultCode := 0, resetReq := false, result := .nothing
      trace := s.trace ++ [.reset] }

/-- Reset with a configuration that violates a check raises ConfigInvalid, names a parameter whose check is violated, and leaves
the block faulted from the start (R145, R167, the spec's decisions D7 and D8); a legal one never does. Which of several is named
is the model's choice (log 22). -/
def Obligations.InvalidConfigurationFaultsAtReset : Prop :=
  ∀ s : State, s.resetReq = true →
    (¬ ConfigLegal s.cfg → ∃ p t, step s = .next t ∧ t.faulted = true ∧ t.faultCode = 0x09 ∧
      t.result = .fault (.configInvalid p) ∧ p.violated s.cfg) ∧
    (ConfigLegal s.cfg → (∃ t, step s = .next t ∧ t.faulted = false) ∧ ∀ p : ConfigParam, ¬ p.violated s.cfg)

/-- The values after reset (R26, the spec's decision D18), with a legal configuration loaded. Which configuration is the model's
choice (log 11, 12). -/
def Obligations.ResetStateHoldsTheResetValues : Prop :=
  State.reset.acc = [] ∧
  State.reset.de.x1 = 0 ∧ State.reset.de.x2 = 0 ∧ State.reset.de.y1 = 0 ∧ State.reset.de.y2 = 0 ∧
  State.reset.pre.x1 = 0 ∧ State.reset.pre.x2 = 0 ∧ State.reset.pre.y1 = 0 ∧ State.reset.pre.y2 = 0 ∧
  State.reset.faulted = false ∧ State.reset.faultCode = 0 ∧
  ConfigLoaded State.reset ∧ ConfigLegal State.reset.cfg

/-! ## Whole-machine invariants -/

/-- Every step keeps the invariant: ACC is within its depth, running or faulted (R14), FAULT_CODE agrees with FAULTED (R20), and a
block that runs has the constants and NET_PRESENT of its configuration (R16, R21) and a legal configuration (R19, R167). What else
a faulted block holds is unspecified (R146) and not spoken of. -/
def Obligations.EveryStepKeepsTheBlockInvariant : Prop :=
  ∀ s t : State, BlockInv s → step s = .next t → BlockInv t

/-- The invariant holds after reset. -/
def Obligations.ResetHasTheBlockInvariant : Prop := BlockInv State.reset

/-- No step but a reset writes a constant of either instance or NET_PRESENT, unless it raises a fault, after which they are
unspecified (R16, R21, R146); and no step whatever, a reset included, writes a parameter (log 21). -/
def Obligations.OnlyResetWritesTheConstants : Prop :=
  ∀ s t : State, step s = .next t →
    t.cfg = s.cfg ∧
    (s.resetReq = false → t.faulted = s.faulted →
      t.de.withHistory 0 0 0 0 = s.de.withHistory 0 0 0 0 ∧
      t.pre.withHistory 0 0 0 0 = s.pre.withHistory 0 0 0 0 ∧
      t.netPresent = s.netPresent)

/-- M2N neither writes nor reads PRE, the output buffer and the collaborator's reads, and N2M neither writes nor reads ACC, DE
and the collaborator's write answers (R18, R25). Written: they are as before, unless a fault leaves the block's state
unspecified (R146). Read: from two states that differ only there, the results, the fault fields, the trace and, without a fault,
the state written are the same. -/
def Obligations.DirectionsShareNoMutableState : Prop :=
  (∀ (s t : State) (c : Option (List Byte)), exec (.m2n c) s = .next t →
    (t.buf = s.buf ∧ t.readDraws = s.readDraws ∧ (t.faulted = s.faulted → t.pre = s.pre)) ∧
    ∀ (pre : Filter) (buf : Option (List Byte)) (reads : List (List Byte)), ∃ u,
      exec (.m2n c) { s with pre := pre, buf := buf, readDraws := reads } = .next u ∧
      u.result = t.result ∧ u.faulted = t.faulted ∧ u.faultCode = t.faultCode ∧ u.trace = t.trace ∧
      (t.faulted = s.faulted → u.acc = t.acc ∧ u.de = t.de)) ∧
  (∀ (s t : State) (c : BitVec 16), exec (.n2m c) s = .next t →
    (t.eotDraws = s.eotDraws ∧ t.dataDraws = s.dataDraws ∧ (t.faulted = s.faulted → t.acc = s.acc ∧ t.de = s.de)) ∧
    ∀ (acc : List Byte) (de : Filter) (eots datas : List Bool), ∃ u,
      exec (.n2m c) { s with acc := acc, de := de, eotDraws := eots, dataDraws := datas } = .next u ∧
      u.result = t.result ∧ u.faulted = t.faulted ∧ u.faultCode = t.faultCode ∧ u.trace = t.trace ∧ u.buf = t.buf ∧
      (t.faulted = s.faulted → u.pre = t.pre))

/-- An M2N command and an N2M command commute on the block's state, provided neither faults: whichever order completes, so does
the other, with the same ACC, DE, PRE and buffer (the spec's inference R43). The collaborator's read is scheduled, so that it
does not depend on the order. -/
def Obligations.OppositeDirectionsCommute : Prop :=
  ∀ (s : State) (c : Option (List Byte)) (cap : BitVec 16), (s.readDraws ≠ [] ∨ s.netPresent = false) →
    (∀ ab, execAll [.m2n c, .n2m cap] s = some ab → ab.faulted = false →
      ∃ ba, execAll [.n2m cap, .m2n c] s = some ba ∧ ba.faulted = false ∧
        ba.acc = ab.acc ∧ ba.de = ab.de ∧ ba.pre = ab.pre ∧ ba.buf = ab.buf) ∧
    (∀ ba, execAll [.n2m cap, .m2n c] s = some ba → ba.faulted = false →
      ∃ ab, execAll [.m2n c, .n2m cap] s = some ab ∧ ab.faulted = false ∧
        ba.acc = ab.acc ∧ ba.de = ab.de ∧ ba.pre = ab.pre ∧ ba.buf = ab.buf)

/-- Per command the trace gains at most one transaction and then the command with its result; the hooks and a block without its
collaborator issue none; M2N only writes and N2M only reads (R45). -/
def Obligations.AtMostOneTransactionPerCommand : Prop :=
  ∀ (i : Instr) (s t : State), i.level = .host → exec i s = .next t →
    ∃ es, t.trace = s.trace ++ es ++ [.returned i t.result] ∧ es.length ≤ 1 ∧
      (∀ e ∈ es, e.isTransaction = true) ∧
      (s.netPresent = false → es = []) ∧
      (∀ ms, i = .tick ms → es = []) ∧ (∀ flag, i = .enable flag → es = []) ∧
      (∀ c, i = .m2n c → ∀ e ∈ es, ∀ k bs, e ≠ .read k bs) ∧
      (∀ c, i = .n2m c → ∀ e ∈ es, ∃ bs, e = .read s.cfg.netReadMax bs)

/-! ## The hooks -/

/-- TICK and ENABLE return and change nothing but what the host port shows, for every operand, or are refused while FAULTED;
their command codes are 0x02 and 0x03 (R129, R130). -/
def Obligations.HooksOnlyReturn : Prop :=
  (∀ s : State, s.faulted = false →
    (∀ ms, exec (.tick ms) s = .next { s with
      result := .done, trace := s.trace ++ [.returned (.tick ms) .done] }) ∧
    (∀ flag, exec (.enable flag) s = .next { s with
      result := .done, trace := s.trace ++ [.returned (.enable flag) .done] })) ∧
  (∀ s : State, s.faulted = true →
    (∀ ms, exec (.tick ms) s = .next { s with
      result := .refused, trace := s.trace ++ [.returned (.tick ms) .refused] }) ∧
    (∀ flag, exec (.enable flag) s = .next { s with
      result := .refused, trace := s.trace ++ [.returned (.enable flag) .refused] })) ∧
  (∀ t ms, (encode t (.tick ms)).head? = some 0x02) ∧ (∀ t flag, (encode t (.enable flag)).head? = some 0x03)

/-! ## M2N and its arms -/

/-- A HEADER chunk returns true, whatever its payload and NET_PRESENT; no state is written and no transaction issued (R119). -/
def Obligations.HeaderReturnsTrue : Prop :=
  ∀ (s : State) (payload : List Byte), s.faulted = false →
    exec (.m2n (some (s.cfg.tags.header :: payload))) s = .next { s with
      result := .flag true
      trace := s.trace ++ [.returned (.m2n (some (s.cfg.tags.header :: payload))) (.flag true)] } ∧
    exec (.m2nHeader payload) s = .next { s with result := .flag true }

/-- A chunk with any other tag returns false; no state is written and no transaction issued, whatever NET_PRESENT (R122, the
spec's decision D14). -/
def Obligations.UnrecognisedTagReturnsFalse : Prop :=
  ∀ (s : State) (tag : Byte) (payload : List Byte), s.faulted = false →
    tag ≠ s.cfg.tags.header → tag ≠ s.cfg.tags.eot → tag ≠ s.cfg.tags.data →
    exec (.m2n (some (tag :: payload))) s = .next { s with
      result := .flag false
      trace := s.trace ++ [.returned (.m2n (some (tag :: payload))) (.flag false)] } ∧
    exec (.m2nOther tag payload) s = .next { s with result := .flag false }

/-- An EOT chunk issues exactly one writeEOT and returns the collaborator's answer, whichever it is; nothing else is written
(R120). Where no answer is scheduled it is a free one (log 8). -/
def Obligations.EotReturnsTheAnswer : Prop :=
  ∀ (s : State) (payload : List Byte), s.faulted = false → s.netPresent = true → s.cfg.tags.legal = true →
    (∀ r more, s.eotDraws = r :: more →
      exec (.m2n (some (s.cfg.tags.eot :: payload))) s = .next { s with
        eotDraws := more, result := .flag r
        trace := s.trace ++ [.writeEot r, .returned (.m2n (some (s.cfg.tags.eot :: payload))) (.flag r)] } ∧
      exec (.m2nEot payload) s = .next { s with
        eotDraws := more, result := .flag r, trace := s.trace ++ [.writeEot r] }) ∧
    (s.eotDraws = [] → ∃ r,
      exec (.m2n (some (s.cfg.tags.eot :: payload))) s = .next { s with
        freeCount := s.freeCount + 1, result := .flag r
        trace := s.trace ++ [.writeEot r, .returned (.m2n (some (s.cfg.tags.eot :: payload))) (.flag r)] } ∧
      exec (.m2nEot payload) s = .next { s with
        freeCount := s.freeCount + 1, result := .flag r, trace := s.trace ++ [.writeEot r] })

/-- EOT with the collaborator absent raises NetAbsent, at the raise with all state as before (R120, R144, R146, the spec's
decision D13). -/
def Obligations.EotWithoutCollaboratorRaisesNetAbsent : Prop :=
  ∀ (s : State) (payload : List Byte), s.faulted = false → s.netPresent = false → s.cfg.tags.legal = true →
    bodyM2n (some (s.cfg.tags.eot :: payload)) s = .raised .netAbsent s ∧
    EndsInFault (.m2n (some (s.cfg.tags.eot :: payload))) 0x07 .netAbsent s ∧
    EndsInFault (.m2nEot payload) 0x07 .netAbsent s

/-- DATA with the collaborator absent returns true with the payload dropped: ACC and DE unchanged (R121, the spec's decision
D13). -/
def Obligations.DataWithoutCollaboratorIsDropped : Prop :=
  ∀ (s : State) (payload : List Byte), s.faulted = false → s.netPresent = false → s.cfg.tags.legal = true →
    exec (.m2n (some (s.cfg.tags.data :: payload))) s = .next (s.report
      (.m2n (some (s.cfg.tags.data :: payload))) (.flag true)) ∧
    exec (.m2nData payload) s = .next { s with result := .flag true }

/-- DATA that a finite accumulator cannot take raises AccOverflow with nothing appended, drained or sent at the raise (R71,
R142, R146, the spec's decision D9). -/
def Obligations.DataPastTheDepthRaisesAccOverflow : Prop :=
  ∀ (s : State) (payload : List Byte) (depth : Nat), s.faulted = false → s.netPresent = true → s.cfg.tags.legal = true →
    s.cfg.accDepth = some depth → depth < s.acc.length + payload.length →
    bodyM2n (some (s.cfg.tags.data :: payload)) s = .raised (.accOverflow (s.acc.length + payload.length)) s ∧
    EndsInFault (.m2n (some (s.cfg.tags.data :: payload))) 0x05 (.accOverflow (s.acc.length + payload.length)) s ∧
    EndsInFault (.m2nData payload) 0x05 (.accOverflow (s.acc.length + payload.length)) s

/-- DATA that leaves fewer than three bytes to drain only buffers its payload and returns true (R121). -/
def Obligations.DataBelowOneGroupOnlyBuffers : Prop :=
  ∀ (s : State) (payload : List Byte), s.faulted = false → s.netPresent = true → s.cfg.tags.legal = true →
    (∀ depth, s.cfg.accDepth = some depth → s.acc.length + payload.length ≤ depth) →
    min (s.acc.length + payload.length) s.cfg.drainCap < 3 →
    exec (.m2n (some (s.cfg.tags.data :: payload))) s = .next (State.report { s with acc := s.acc ++ payload }
      (.m2n (some (s.cfg.tags.data :: payload))) (.flag true)) ∧
    exec (.m2nData payload) s = .next { s with acc := s.acc ++ payload, result := .flag true }

/-- DATA with at least one whole group drains whole groups up to the cap, runs them through the pipeline, hands the bytes to the
network in one writeData and returns its answer; a false answer rolls nothing back (R121, R124). -/
def Obligations.DataSendsWholeGroupsOnce : Prop :=
  ∀ (s : State) (payload : List Byte) (n : Nat) (out : List Byte) (f : Filter),
    s.faulted = false → s.netPresent = true → s.cfg.tags.legal = true →
    (∀ depth, s.cfg.accDepth = some depth → s.acc.length + payload.length ≤ depth) →
    n = drainedOf (s.acc.length + payload.length) s.cfg.drainCap → 3 ≤ n →
    groupsToNet s.cfg.fp s.de ((s.acc ++ payload).take n) = .ok (out, f) →
    (∀ r more, s.dataDraws = r :: more →
      exec (.m2n (some (s.cfg.tags.data :: payload))) s = .next (State.report { s with
        acc := (s.acc ++ payload).drop n, de := f, dataDraws := more, trace := s.trace ++ [.writeData out r] }
        (.m2n (some (s.cfg.tags.data :: payload))) (.flag r)) ∧
      exec (.m2nData payload) s = .next { s with
        acc := (s.acc ++ payload).drop n, de := f, dataDraws := more, result := .flag r
        trace := s.trace ++ [.writeData out r] }) ∧
    (s.dataDraws = [] → ∃ r,
      exec (.m2n (some (s.cfg.tags.data :: payload))) s = .next (State.report { s with
        acc := (s.acc ++ payload).drop n, de := f, freeCount := s.freeCount + 1
        trace := s.trace ++ [.writeData out r] } (.m2n (some (s.cfg.tags.data :: payload))) (.flag r)) ∧
      exec (.m2nData payload) s = .next { s with
        acc := (s.acc ++ payload).drop n, de := f, freeCount := s.freeCount + 1, result := .flag r
        trace := s.trace ++ [.writeData out r] })

/-- The pipeline of R121 on whole groups, in terms of the units: unpack every triplet, A before B (R96, the spec's decision
D25), DEC12F, one filter step per sample in stream order (R109), ENC16, SER16. It completes exactly when every encode does. -/
def Obligations.PipelineComposesTheUnits : Prop :=
  ∀ (fp : Fp) (k : Nat) (d out : List Byte) (f f' : Filter), d.length = 3 * k →
    (groupsToNet fp f d = .ok (out, f') ↔
      ∃ ws : List Sample16,
        (filterRun fp f ((tripletSamples d).map (decode12 fp))).1.map (encode16 fp) = ws.map Except.ok ∧
        out = ws.flatMap sampleBytes ∧ f' = (filterRun fp f ((tripletSamples d).map (decode12 fp))).2)

/-- The pipeline's fault is at the first sample in stream order whose conversion is no number (R151, the spec's decision D14).
-/
def Obligations.PipelineFaultsAtTheFirstNonNumber : Prop :=
  ∀ (fp : Fp) (k : Nat) (d : List Byte) (f : Filter) (bits : F32), d.length = 3 * k →
    (groupsToNet fp f d = .error bits ↔
      ∃ (ys zs : List F32) (y : F32),
        (filterRun fp f ((tripletSamples d).map (decode12 fp))).1 = ys ++ y :: zs ∧
        (∀ v ∈ ys, ∃ w, encode16 fp v = .ok w) ∧ encode16 fp y = .error bits)

/-- A DATA command whose pipeline meets a non-number ends in NumericFault with the value's bits, and no writeData is issued
(R143, R146, the spec's decisions D6 and D11). -/
def Obligations.DataWithNonNumberRaisesNumericFault : Prop :=
  ∀ (s : State) (payload : List Byte) (n : Nat) (bits : F32),
    s.faulted = false → s.netPresent = true → s.cfg.tags.legal = true →
    (∀ depth, s.cfg.accDepth = some depth → s.acc.length + payload.length ≤ depth) →
    n = drainedOf (s.acc.length + payload.length) s.cfg.drainCap →
    groupsToNet s.cfg.fp s.de ((s.acc ++ payload).take n) = .error bits →
    EndsInFault (.m2n (some (s.cfg.tags.data :: payload))) 0x06 (.numericFault bits) s ∧
    EndsInFault (.m2nData payload) 0x06 (.numericFault bits) s

/-- The sizes of a DATA command that completes: what stays buffered and how many bytes reach the network (the spec's inference
R123). -/
def Obligations.DataSizes : Prop :=
  ∀ (s t : State) (payload : List Byte), s.faulted = false → s.netPresent = true → s.cfg.tags.legal = true →
    exec (.m2n (some (s.cfg.tags.data :: payload))) s = .next t → t.faulted = false →
    t.acc.length = s.acc.length + payload.length - drainedOf (s.acc.length + payload.length) s.cfg.drainCap ∧
    (writtenBytes t.trace).length = (writtenBytes s.trace).length +
      4 * (drainedOf (s.acc.length + payload.length) s.cfg.drainCap / 3) ∧
    (s.cfg.drainCap = 255 → s.acc.length + payload.length ≤ 255 →
      t.acc.length = (s.acc.length + payload.length) % 3) ∧
    (s.cfg.drainCap = 255 → 255 < s.acc.length + payload.length →
      t.acc.length = s.acc.length + payload.length - 255)

/-- Chunk boundaries do not matter: two DATA commands leave the same ACC and DE and send the same bytes as one DATA command with
the joined payload, while no more is buffered than one command drains (R74, R75). R75 is the spec's inference. -/
def Obligations.ChunkBoundariesDoNotMatter : Prop :=
  ∀ (s u : State) (p q : List Byte), s.faulted = false → s.netPresent = true → s.cfg.tags.legal = true →
    s.acc.length + p.length + q.length ≤ s.cfg.drainCap →
    exec (.m2n (some (s.cfg.tags.data :: (p ++ q)))) s = .next u → u.faulted = false →
    ∃ t, execAll [.m2n (some (s.cfg.tags.data :: p)), .m2n (some (s.cfg.tags.data :: q))] s = some t ∧
      t.faulted = false ∧ t.acc = u.acc ∧ t.de = u.de ∧ writtenBytes t.trace = writtenBytes u.trace

/-! ## N2M -/

/-- N2M with the collaborator absent returns 0 and touches nothing (R128, the spec's decision D13); with a read that yields
nothing, scheduled or free (log 8), it returns 0 without touching the buffer or PRE (R125, R140). -/
def Obligations.N2mWithoutDataReturnsZero : Prop :=
  ∀ (s : State) (c : BitVec 16), s.faulted = false → s.buf ≠ none → c ≠ 0 →
    (s.netPresent = false → exec (.n2m c) s = .next { s with
      result := .count 0 [], trace := s.trace ++ [.returned (.n2m c) (.count 0 [])] }) ∧
    (∀ t, s.netPresent = true → ReadYields s [] t → exec (.n2m c) s = .next { t with
      result := .count 0 []
      trace := s.trace ++ [.read s.cfg.netReadMax [], .returned (.n2m c) (.count 0 [])] })

/-- An N2M whose read yields bytes, scheduled or free (log 8), filters every whole sample and packs the leading pairs that the
samples and the clamped capacity allow into the front of the buffer; its result is their count and the bytes (R57, R125, R126,
the spec's decision D15). -/
def Obligations.N2mPacksTheLeadingPairs : Prop :=
  ∀ (s t : State) (c : BitVec 16) (rd buf out : List Byte) (fs : List F32) (f : Filter) (g : Nat),
    s.faulted = false → s.buf = some buf → c ≠ 0 → s.netPresent = true → ReadYields s rd t →
    filterRun s.cfg.fp s.pre ((pairSamples rd).map (decode16 s.cfg.fp)) = (fs, f) →
    g = min (rd.length / 2 / 2) (min c.toNat s.cfg.outCapMax / 3) →
    packPairs s.cfg.fp (fs.take (2 * g)) = (out, none) →
    exec (.n2m c) s = .next { t with
      pre := f, buf := some (out ++ buf.drop (3 * g)), result := .count (3 * g) out
      trace := s.trace ++ [.read s.cfg.netReadMax rd, .returned (.n2m c) (.count (3 * g) out)] }

/-- What packing writes, in terms of the units: ENC12 on both samples of every pair and PACK12, the earlier sample in lane A
(R96, the spec's decision D25, R125). -/
def Obligations.PackingComposesTheUnits : Prop :=
  ∀ (fp : Fp) (ps : List (F32 × F32)) (zs : List (Int × Int)),
    (ps.map fun p => encode12 fp p.1) = (zs.map fun z => Except.ok z.1) →
    (ps.map fun p => encode12 fp p.2) = (zs.map fun z => Except.ok z.2) →
    packPairs fp (ps.flatMap fun p => [p.1, p.2]) = (zs.flatMap fun z => packTriplet z.1 z.2, none)

/-- An N2M of whose packed samples some ENC12 fails ends in NumericFault with the bits of the first in stream order, after its
one read, scheduled or free (R125, R126, R143, R146, R151, the spec's decisions D6 and D14). What the buffer then holds is not
spoken of (log 19). -/
def Obligations.N2mWithNonNumberRaisesNumericFault : Prop :=
  ∀ (s t : State) (c : BitVec 16) (rd buf : List Byte) (ys zs : List F32) (y bits : F32) (g : Nat),
    s.faulted = false → s.buf = some buf → c ≠ 0 → s.netPresent = true → ReadYields s rd t →
    g = min (rd.length / 2 / 2) (min c.toNat s.cfg.outCapMax / 3) →
    (filterRun s.cfg.fp s.pre ((pairSamples rd).map (decode16 s.cfg.fp))).1.take (2 * g) = ys ++ y :: zs →
    (∀ v ∈ ys, ∃ z, encode12 s.cfg.fp v = .ok z) → encode12 s.cfg.fp y = .error bits →
    ∃ u, exec (.n2m c) s = .next u ∧ FaultEntered 0x06 (.numericFault bits) { t with buf := u.buf } u ∧
      u.trace = s.trace ++ [.read s.cfg.netReadMax rd, .returned (.n2m c) (.fault (.numericFault bits))]

/-- Whatever N2M returns is a multiple of 3 within the clamped capacity, at most 126 with the source's sizes, with the bytes now
at the front of the buffer, and every byte of the buffer at or past it is unchanged (R46, R57, R127, the spec's decision D17).
-/
def Obligations.N2mStaysWithinItsResult : Prop :=
  ∀ (s t : State) (c : BitVec 16) (r : Nat) (bytes : List Byte), exec (.n2m c) s = .next t → t.result = .count r bytes →
    r % 3 = 0 ∧ r ≤ min c.toNat s.cfg.outCapMax ∧ (s.cfg.netReadMax = 168 → r ≤ 126) ∧ bytes.length = r ∧
    ∃ b b', s.buf = some b ∧ t.buf = some b' ∧ b'.take r = bytes ∧ ∀ i, r ≤ i → b'[i]? = b[i]?

/-- The samples that pass the filter do not depend on the capacity: surplus samples are filtered too (R126, the spec's decision
D15). -/
def Obligations.N2mFiltersWhateverTheCapacity : Prop :=
  ∀ (s t u : State) (c e : BitVec 16), c ≠ 0 → e ≠ 0 → s.faulted = false →
    exec (.n2m c) s = .next t → exec (.n2m e) s = .next u → t.faulted = false → u.faulted = false → t.pre = u.pre

/-- N2M answers a next state for every state and capacity unless the collaborator breaks its contract with a read longer than
was asked for, where there is no move (R117, U16). -/
def Obligations.N2mStopsOnlyOnAnOverlongRead : Prop :=
  ∀ (s : State) (c : BitVec 16),
    ((∀ rd more, s.readDraws = rd :: more → rd.length ≤ s.cfg.netReadMax) → ∃ t, exec (.n2m c) s = .next t) ∧
    (∀ rd more, s.faulted = false → s.buf ≠ none → c ≠ 0 → s.netPresent = true → s.readDraws = rd :: more →
      s.cfg.netReadMax < rd.length → exec (.n2m c) s = .refused (.readTooLong rd.length))

/-! ## The accumulator -/

/-- ACC.APPEND adds its bytes at the tail, or, past a finite depth, raises AccOverflow with ACC unchanged at the raise;
appending in two parts is appending the whole (R71, R142, R146, the spec's decision D9). -/
def Obligations.AppendAddsAtTheTail : Prop :=
  ∀ (s : State) (bytes : List Byte), s.faulted = false →
    ((∀ depth, s.cfg.accDepth = some depth → s.acc.length + bytes.length ≤ depth) →
      exec (.accAppend bytes) s = .next { s with acc := s.acc ++ bytes, result := .done }) ∧
    (∀ depth, s.cfg.accDepth = some depth → depth < s.acc.length + bytes.length →
      accAppend bytes s = .raised (.accOverflow (s.acc.length + bytes.length)) s ∧
      EndsInFault (.accAppend bytes) 0x05 (.accOverflow (s.acc.length + bytes.length)) s) ∧
    (s.cfg.accDepth = none → ∀ more,
      execAll [.accAppend bytes, .accAppend more] s = nextOf (exec (.accAppend (bytes ++ more)) s))

/-- ACC.SIZE, unit index 0x11, returns the byte count and changes nothing (R72). -/
def Obligations.SizeReturnsTheByteCount : Prop :=
  (∀ s : State, s.faulted = false → exec .accSize s = .next { s with result := .size s.acc.length }) ∧
  ∀ t, (encode t .accSize).head? = some 0x11

/-- ACC.DRAIN removes and returns the first n bytes, or raises AccUnderflow with ACC unchanged at the raise (R73, R142, R146,
the spec's decision D10). -/
def Obligations.DrainRemovesFromTheHead : Prop :=
  ∀ (s : State) (n : Nat), s.faulted = false →
    (n ≤ s.acc.length →
      exec (.accDrain n) s = .next { s with acc := s.acc.drop n, result := .bytes (s.acc.take n) }) ∧
    (s.acc.length < n →
      accDrain n s = .raised (.accUnderflow n) s ∧ EndsInFault (.accDrain n) 0x04 (.accUnderflow n) s)

/-- Draining in any sequence of chunk sizes yields the same bytes as draining their sum at once, and ACC is the rest (R74). -/
def Obligations.DrainingInAnyChunksIsDrainingAtOnce : Prop :=
  ∀ (ns : List Nat) (s : State), ns.sum ≤ s.acc.length →
    drainAll ns s = some (s.acc.take ns.sum, { s with acc := s.acc.drop ns.sum })

/-! ## The codec -/

/-- UNPACK12, unit index 0x20: sample A is the high 12 bits and sample B the low 12 bits of the big-endian 24-bit value (R81).
-/
def Obligations.UnpackSplitsTheBigEndianValue : Prop :=
  ∀ (s : State) (t0 t1 t2 : Byte), s.faulted = false →
    exec (.unpack12 t0 t1 t2) s = .next { s with
      result := .samples (BitVec.ofNat 12 ((t0.toNat * 65536 + t1.toNat * 256 + t2.toNat) / 4096))
        (BitVec.ofNat 12 ((t0.toNat * 65536 + t1.toNat * 256 + t2.toNat) % 4096)) } ∧
    ∀ t, (encode t (.unpack12 t0 t1 t2)).head? = some 0x20

/-- PACK12: each integer is reduced mod 4096 with a non-negative residue, and the 24-bit value's bytes are big-endian (R82, the
spec's decision D6). -/
def Obligations.PackReducesAndJoins : Prop :=
  ∀ (s : State) (a b : Int) (v : Nat), s.faulted = false → (v : Int) = (a % 4096) * 4096 + b % 4096 →
    exec (.pack12 a b) s = .next { s with
      result := .bytes [BitVec.ofNat 8 (v / 65536), BitVec.ofNat 8 (v / 256 % 256), BitVec.ofNat 8 (v % 256)] }

/-- Packing and unpacking are inverse on all 12-bit pairs and on all byte triples (R83, the second an inference of the spec). -/
def Obligations.TripletRoundTrips : Prop :=
  (∀ a b : Sample12, ∃ t0 t1 t2, packTriplet a.toNat b.toNat = [t0, t1, t2] ∧ unpackTriplet t0 t1 t2 = (a, b)) ∧
  (∀ t0 t1 t2 : Byte,
    packTriplet (unpackTriplet t0 t1 t2).1.toNat (unpackTriplet t0 t1 t2).2.toNat = [t0, t1, t2])

/-- DES16 and SER16, unit indices 0x26 and 0x27, are the two big-endian views of a 16-bit sample, inverse to each other (R91,
R92). -/
def Obligations.NetworkSamplesAreBigEndian : Prop :=
  ∀ s : State, s.faulted = false →
    (∀ p0 p1, exec (.des16 p0 p1) s = .next { s with
      result := .sample16 (BitVec.ofNat 16 (p0.toNat * 256 + p1.toNat)) }) ∧
    (∀ u : Sample16, exec (.ser16 u) s = .next { s with
      result := .bytes [BitVec.ofNat 8 (u.toNat / 256), BitVec.ofNat 8 (u.toNat % 256)] }) ∧
    (∀ u : Sample16, ∃ p0 p1, sampleBytes u = [p0, p1] ∧ pairSample p0 p1 = u) ∧
    (∀ p0 p1 : Byte, sampleBytes (pairSample p0 p1) = [p0, p1]) ∧
    (∀ t p0 p1, (encode t (.des16 p0 p1)).head? = some 0x26) ∧ (∀ t u, (encode t (.ser16 u)).head? = some 0x27)

/-- DEC12F in binary32 is exactly (u - 2048) / 2048; a unit is 2^-149 and 2^149 / 2048 is 2^138 (R84, the spec's inference from
D4). In every arithmetic it is the subtraction and then the division. -/
def Obligations.Decode12IsExact : Prop :=
  ∀ (s : State) (u : Sample12), s.faulted = false →
    exec (.dec12f u) s = .next { s with
      result := .float (s.cfg.fp.div (s.cfg.fp.sub (s.cfg.fp.ofInt u.toNat) (s.cfg.fp.ofInt 2048)) (s.cfg.fp.ofInt 2048)) } ∧
    (s.cfg.fp = .binary32 → ∃ f, exec (.dec12f u) s = .next { s with result := .float f } ∧ fIsFinite f = true ∧
      fUnits f = ((u.toNat : Int) - 2048) * 2 ^ 138 ∧ (u.toNat = 2048 → f = 0))

/-- DEC16F is u / 32767.0 - 1.0, a division and a subtraction each rounded once (R88, R89, the spec's decision D5). The literals
of the formulas in binary32 are 0x3F800000 and 0x3F000000. -/
def Obligations.Decode16FollowsItsFormula : Prop :=
  Fp.binary32.one = 0x3F800000#32 ∧ Fp.binary32.half = 0x3F000000#32 ∧
  ∀ (s : State) (u : Sample16), s.faulted = false →
    exec (.dec16f u) s = .next { s with
      result := .float (s.cfg.fp.sub (s.cfg.fp.div (s.cfg.fp.ofInt u.toNat) (s.cfg.fp.ofInt 32767)) s.cfg.fp.one) }

/-- ENC12 adds 1.0, multiplies by 2048.0, adds 0.5 and converts to an integer, unmasked; a value that is no number raises
NumericFault with its bits; in binary32 the conversion truncates toward zero (R86, R87, R88, R90, R143, the spec's decision D6).
-/
def Obligations.Encode12FollowsItsFormula : Prop :=
  ∀ (s : State) (f v : F32), s.faulted = false →
    v = s.cfg.fp.add (s.cfg.fp.mul (s.cfg.fp.add f s.cfg.fp.one) (s.cfg.fp.ofInt 2048)) s.cfg.fp.half →
    (∀ z, s.cfg.fp.toInt v = .ok z → exec (.enc12 f) s = .next { s with result := .integer z }) ∧
    (∀ bits, s.cfg.fp.toInt v = .error bits → EndsInFault (.enc12 f) 0x06 (.numericFault bits) s) ∧
    (s.cfg.fp = .binary32 →
      s.cfg.fp.toInt v = if fIsFinite v then .ok ((fUnits v).tdiv (2 ^ 149)) else .error v)

/-- ENC16 adds 1.0, multiplies by 32767.0, adds 0.5, converts to an integer and reduces mod 65536; a value that is no number
raises NumericFault with its bits; in binary32 the conversion truncates toward zero (R85, R86, R87, R88, R143, the spec's
decision D6). -/
def Obligations.Encode16FollowsItsFormula : Prop :=
  ∀ (s : State) (f v : F32), s.faulted = false →
    v = s.cfg.fp.add (s.cfg.fp.mul (s.cfg.fp.add f s.cfg.fp.one) (s.cfg.fp.ofInt 32767)) s.cfg.fp.half →
    (∀ z, s.cfg.fp.toInt v = .ok z → ∃ u : Sample16, exec (.enc16 f) s = .next { s with result := .sample16 u } ∧
      (u.toNat : Int) = z % 65536) ∧
    (∀ bits, s.cfg.fp.toInt v = .error bits → EndsInFault (.enc16 f) 0x06 (.numericFault bits) s) ∧
    (s.cfg.fp = .binary32 →
      s.cfg.fp.toInt v = if fIsFinite v then .ok ((fUnits v).tdiv (2 ^ 149)) else .error v)

/-- In binary32 the 12-bit round trip is exact for every code (the spec's inference R93). -/
def Obligations.RoundTrip12IsExact : Prop := ∀ u : Sample12,
  encode12 .binary32 (decode12 .binary32 u) = .ok (u.toNat : Int)

/-- In binary32 the 16-bit round trip is exact for every code (the spec's inference R94). -/
def Obligations.RoundTrip16IsExact : Prop := ∀ u : Sample16,
  encode16 .binary32 (decode16 .binary32 u) = .ok u

/-! ## Floating point -/

/-- The four operations on finite operands are correctly rounded to nearest, ties to even, with the sign of the exact result; an
exact zero sum is +0 unless both addends are -0 (R7, D4, D24). -/
def Obligations.ArithmeticIsCorrectlyRounded : Prop :=
  ∀ a b : F32, fIsFinite a = true → fIsFinite b = true →
    (NearestMag (fUnits a + fUnits b).natAbs 1 (fMag (Fp.binary32.add a b)) ∧
      (fUnits a + fUnits b ≠ 0 → fSign (Fp.binary32.add a b) = decide (fUnits a + fUnits b < 0)) ∧
      (fUnits a + fUnits b = 0 → fSign (Fp.binary32.add a b) = (fSign a && fSign b))) ∧
    (NearestMag (fUnits a - fUnits b).natAbs 1 (fMag (Fp.binary32.sub a b)) ∧
      (fUnits a - fUnits b ≠ 0 → fSign (Fp.binary32.sub a b) = decide (fUnits a - fUnits b < 0)) ∧
      (fUnits a - fUnits b = 0 → fSign (Fp.binary32.sub a b) = (fSign a && !fSign b))) ∧
    (NearestMag (magUnits (fMag a) * magUnits (fMag b)) (2 ^ 149) (fMag (Fp.binary32.mul a b)) ∧
      fSign (Fp.binary32.mul a b) = (fSign a != fSign b)) ∧
    (fIsZero b = false →
      NearestMag (magUnits (fMag a) * 2 ^ 149) (magUnits (fMag b)) (fMag (Fp.binary32.div a b)) ∧
      fSign (Fp.binary32.div a b) = (fSign a != fSign b))

/-- i2f is exact for integers of magnitude at most 2^24 (R7); f2i_trunc of a finite value is sign(v) · floor(|v|) with no width,
and of anything else no integer (R87). -/
def Obligations.IntegerConversionsAreExact : Prop :=
  (∀ n : Int, n.natAbs ≤ 2 ^ 24 → fIsFinite (Fp.binary32.ofInt n) = true ∧ fUnits (Fp.binary32.ofInt n) = n * 2 ^ 149) ∧
  (∀ v : F32, fIsFinite v = true →
    Fp.binary32.toInt v = .ok (if fSign v then -((magUnits (fMag v) / 2 ^ 149 : Nat) : Int)
      else ((magUnits (fMag v) / 2 ^ 149 : Nat) : Int))) ∧
  (∀ v : F32, fIsFinite v = false → Fp.binary32.toInt v = .error v)

/-- In binary32 the gain is the f32 nearest to 10^(dB/20), ties to even, for every rational dB (R102, the spec's decision D7). That dB is
rational is the model's choice (log 14). -/
def Obligations.GainIsTheNearestPower : Prop :=
  ∀ dB : Rat, fSign (linearGain .binary32 (.decibel dB)) = false ∧
    NearestToReal ((10 : ℝ) ^ ((dB : ℝ) / 20)) (fMag (linearGain .binary32 (.decibel dB)))

/-! ## The filter -/

/-- BIQUAD.STEP: the source's equation with one rounding per operation in the written order; the histories shift by one with the
raw output stored; the gain applies to the returned value only; the other instance and everything else are unchanged (R18, R104
to R106). -/
def Obligations.BiquadStepFollowsTheEquation : Prop :=
  ∀ (s : State) (x y z : F32), s.faulted = false →
    y = s.cfg.fp.div (s.cfg.fp.sub (s.cfg.fp.sub (s.cfg.fp.add (s.cfg.fp.add (s.cfg.fp.mul s.de.b0 x)
      (s.cfg.fp.mul s.de.b1 s.de.x1)) (s.cfg.fp.mul s.de.b2 s.de.x2)) (s.cfg.fp.mul s.de.a1 s.de.y1))
      (s.cfg.fp.mul s.de.a2 s.de.y2)) s.de.a0 →
    z = s.cfg.fp.div (s.cfg.fp.sub (s.cfg.fp.sub (s.cfg.fp.add (s.cfg.fp.add (s.cfg.fp.mul s.pre.b0 x)
      (s.cfg.fp.mul s.pre.b1 s.pre.x1)) (s.cfg.fp.mul s.pre.b2 s.pre.x2)) (s.cfg.fp.mul s.pre.a1 s.pre.y1))
      (s.cfg.fp.mul s.pre.a2 s.pre.y2)) s.pre.a0 →
    exec (.biquadStep .de x) s = .next { s with
      de := { s.de with x1 := x, x2 := s.de.x1, y1 := y, y2 := s.de.y1 }, result := .float (s.cfg.fp.mul y s.de.g) } ∧
    exec (.biquadStep .pre x) s = .next { s with
      pre := { s.pre with x1 := x, x2 := s.pre.x1, y1 := z, y2 := s.pre.y1 }, result := .float (s.cfg.fp.mul z s.pre.g) }

/-- In binary32 an all-zero input through a legal filter with zero history gives an all-zero output and leaves the history zero,
as numbers, and both zeros encode to the zero levels (R107, the spec's inference from R104). -/
def Obligations.SilenceGivesSilence : Prop :=
  (∀ (f : Filter) (xs : List F32), f.legal .binary32 = true → f.silent .binary32 = true → (∀ x ∈ xs, Fp.binary32.isZero x = true) →
    (∀ y ∈ (filterRun .binary32 f xs).1, Fp.binary32.isZero y = true) ∧ (filterRun .binary32 f xs).2.silent .binary32 = true) ∧
  (∀ y : F32, Fp.binary32.isZero y = true → encode16 .binary32 y = .ok 32767 ∧ encode12 .binary32 y = .ok 2048) ∧
  Fp.binary32.isZero (decode12 .binary32 2048) = true ∧ Fp.binary32.isZero (decode16 .binary32 32767) = true

/-- In binary32 a non-finite value in a history stays, and every later encode of an output is no number (the spec's inferences
R108 and R176). -/
def Obligations.NonFiniteHistoryIsPermanent : Prop :=
  ∀ (f : Filter) (xs : List F32), f.historyFinite .binary32 = false →
    (filterRun .binary32 f xs).2.historyFinite .binary32 = false ∧
    ∀ y ∈ (filterRun .binary32 f xs).1, (∃ bits, encode16 .binary32 y = .error bits) ∧
      (∃ bits, encode12 .binary32 y = .error bits)
end

