-- ==== Sys2Proof/Laws/Bytes.lean ====
section
/-! SUPPORT. The byte-order helpers of Decode.lean: lengths, and reading back what was written. -/

namespace Sys2Proof

@[simp] theorem beBytes_length (k v : Nat) : (beBytes k v).length = k := by
  induction k with
  | zero => rfl
  | succ k ih => simp [beBytes, ih]

theorem beNat_beBytes (k v : Nat) : beNat (beBytes k v) = v % 256 ^ k := by
  induction k with
  | zero => simp [beBytes, beNat, Nat.mod_one]
  | succ k ih =>
    have hb : (BitVec.ofNat 8 (v / 256 ^ k)).toNat = v / 256 ^ k % 256 := by simp
    rw [beBytes, beNat, ih, beBytes_length, hb, Nat.pow_succ, Nat.mod_mul]
    ring

theorem beNat_lt (bs : List Byte) : beNat bs < 256 ^ bs.length := by
  induction bs with
  | nil => simp [beNat]
  | cons b bs ih =>
    have hb := b.isLt
    rw [beNat, List.length_cons, Nat.pow_succ]
    nlinarith [Nat.pow_pos (n := bs.length) (show 0 < 256 by omega)]

theorem beBytes_mod (k v : Nat) : beBytes k (v % 256 ^ k) = beBytes k v := by
  suffices h : ∀ m, k ≤ m → beBytes k (v % 256 ^ m) = beBytes k v from h k le_rfl
  induction k with
  | zero => intros; rfl
  | succ k ih =>
    intro m hm
    rw [beBytes, beBytes, ih m (by omega)]
    congr 1
    apply BitVec.eq_of_toNat_eq
    obtain ⟨j, rfl⟩ := Nat.exists_eq_add_of_le hm
    simp only [BitVec.toNat_ofNat]
    rw [show k + 1 + j = k + (1 + j) by ring, Nat.pow_add, Nat.mod_mul_right_div_self, Nat.pow_add, pow_one]
    exact Nat.mod_mul_right_mod _ _ _

theorem beBytes_beNat (bs : List Byte) : beBytes bs.length (beNat bs) = bs := by
  induction bs with
  | nil => rfl
  | cons b bs ih =>
    have h := beNat_lt bs
    rw [List.length_cons, beBytes, beNat]
    congr 1
    · apply BitVec.eq_of_toNat_eq
      rw [Nat.add_comm, Nat.add_mul_div_right _ _ (by positivity), Nat.div_eq_of_lt h]
      simp
    · rw [← beBytes_mod, Nat.add_comm, Nat.add_mul_mod_self_right, Nat.mod_eq_of_lt h, ih]

theorem splitBytes_append (bs rest : List Byte) : splitBytes bs.length (bs ++ rest) = some (bs, rest) := by
  simp [splitBytes]

theorem splitBytes_beBytes (k v : Nat) (rest : List Byte) :
    splitBytes k (beBytes k v ++ rest) = some (beBytes k v, rest) := by
  simpa using splitBytes_append (beBytes k v) rest

theorem splitBytes_some {k : Nat} {bs f rest : List Byte} (h : splitBytes k bs = some (f, rest)) :
    f.length = k ∧ bs = f ++ rest := by
  unfold splitBytes at h
  split at h
  · cases h
    exact ⟨by simpa using ‹_›, (List.take_append_drop k bs).symm⟩
  · cases h

theorem splitCounted_counted (bs rest : List Byte) (h : bs.length < 65536) :
    splitCounted (counted bs ++ rest) = some (bs, rest) := by
  simp only [splitCounted, counted, List.append_assoc, splitBytes_beBytes, beNat_beBytes]
  rw [Nat.mod_eq_of_lt (by simpa using h), splitBytes_append]

theorem splitCounted_some {bs f rest : List Byte} (h : splitCounted bs = some (f, rest)) :
    f.length < 65536 ∧ bs = counted f ++ rest := by
  unfold splitCounted at h
  split at h
  · rename_i len more hl
    obtain ⟨h2, rfl⟩ := splitBytes_some hl
    obtain ⟨hf, rfl⟩ := splitBytes_some h
    have hlt := beNat_lt len
    rw [h2] at hlt
    refine ⟨by rw [hf]; simpa using hlt, ?_⟩
    rw [counted, hf, ← h2, beBytes_beNat, List.append_assoc]
  · cases h

/-! ## Two's complement -/

theorem natOfInt_lt (bits : Nat) (a : Int) : natOfInt bits a < 2 ^ bits := by
  have h1 := Int.emod_nonneg a (show (2 : Int) ^ bits ≠ 0 by positivity)
  have h2 := Int.emod_lt_of_pos a (show (0 : Int) < (2 : Int) ^ bits by positivity)
  rw [natOfInt]
  zify
  omega

theorem intOfNat_natOfInt (a : Int) (h : packOperandOk a = true) :
    intOfNat packOperandBits (natOfInt packOperandBits a) = a := by
  simp only [packOperandOk, packOperandBits, Bool.and_eq_true] at h
  simp only [intOfNat, natOfInt, packOperandBits]
  norm_num at h ⊢
  split <;> omega

theorem natOfInt_intOfNat (v : Nat) (h : v < 2 ^ packOperandBits) :
    natOfInt packOperandBits (intOfNat packOperandBits v) = v ∧ packOperandOk (intOfNat packOperandBits v) = true := by
  simp only [packOperandOk, packOperandBits, Bool.and_eq_true] at *
  simp only [intOfNat, natOfInt]
  norm_num at h ⊢
  split <;> omega

end Sys2Proof
end

