-- ==== Sys2Proof/Laws/Float.lean ====
section
/-! SUPPORT. The configuration record FP at its default, binary32. -/

namespace Sys2Proof

open Machine

@[simp] theorem ofBinary32_eq (v : Binary32) : ofBinary32 v = v := BitVec.setWidth_eq v
@[simp] theorem toBinary32_eq (v : F32) : toBinary32 v = v := BitVec.setWidth_eq v

@[simp] theorem Fp.add_binary32 (a b : F32) : Fp.binary32.add a b = fadd a b := by simp [Fp.add, Fp.op, binary32Op]
@[simp] theorem Fp.sub_binary32 (a b : F32) : Fp.binary32.sub a b = fsub a b := by simp [Fp.sub, Fp.op, binary32Op]
@[simp] theorem Fp.mul_binary32 (a b : F32) : Fp.binary32.mul a b = fmul a b := by simp [Fp.mul, Fp.op, binary32Op]
@[simp] theorem Fp.div_binary32 (a b : F32) : Fp.binary32.div a b = fdiv a b := by simp [Fp.div, Fp.op, binary32Op]
@[simp] theorem Fp.ofInt_binary32 (n : Int) : Fp.binary32.ofInt n = i2f n := by simp [Fp.ofInt]

@[simp] theorem Fp.toInt_binary32 (v : F32) : Fp.binary32.toInt v = f2iTrunc v := by
  simp only [Fp.toInt, toBinary32_eq, ofBinary32_eq]
  split <;> simp [*]

@[simp] theorem Fp.zero_binary32 : Fp.binary32.zero = 0#32 := rfl
@[simp] theorem Fp.one_binary32 : Fp.binary32.one = fOne := rfl
@[simp] theorem Fp.half_binary32 : Fp.binary32.half = fHalf := rfl
@[simp] theorem Fp.isZero_binary32 (v : F32) : Fp.binary32.isZero v = fIsZero v := by simp [Fp.isZero]
@[simp] theorem Fp.isFinite_binary32 (v : F32) : Fp.binary32.isFinite v = fIsFinite v := by simp [Fp.isFinite]
@[simp] theorem ofDecibel_binary32 (dB : Rat) : ofDecibel .binary32 dB = dbToLin dB := by simp [ofDecibel]

end Sys2Proof
end

