-- ==== Sys2Proof/Laws/State.lean ====
section
/-! SUPPORT. One lemma per field and named update of the state, so that no proof unfolds a record update. -/

namespace Sys2Proof.Machine

/-! ## yield -/

@[simp] theorem State.yield_acc (s : State) (r : Result) : (s.yield r).acc = s.acc := rfl
@[simp] theorem State.yield_de (s : State) (r : Result) : (s.yield r).de = s.de := rfl
@[simp] theorem State.yield_pre (s : State) (r : Result) : (s.yield r).pre = s.pre := rfl
@[simp] theorem State.yield_netPresent (s : State) (r : Result) : (s.yield r).netPresent = s.netPresent := rfl
@[simp] theorem State.yield_faulted (s : State) (r : Result) : (s.yield r).faulted = s.faulted := rfl
@[simp] theorem State.yield_faultCode (s : State) (r : Result) : (s.yield r).faultCode = s.faultCode := rfl
@[simp] theorem State.yield_cfg (s : State) (r : Result) : (s.yield r).cfg = s.cfg := rfl
@[simp] theorem State.yield_stream (s : State) (r : Result) : (s.yield r).stream = s.stream := rfl
@[simp] theorem State.yield_buf (s : State) (r : Result) : (s.yield r).buf = s.buf := rfl
@[simp] theorem State.yield_resetReq (s : State) (r : Result) : (s.yield r).resetReq = s.resetReq := rfl
@[simp] theorem State.yield_result (s : State) (r : Result) : (s.yield r).result = r := rfl
@[simp] theorem State.yield_eotDraws (s : State) (r : Result) : (s.yield r).eotDraws = s.eotDraws := rfl
@[simp] theorem State.yield_dataDraws (s : State) (r : Result) : (s.yield r).dataDraws = s.dataDraws := rfl
@[simp] theorem State.yield_readDraws (s : State) (r : Result) : (s.yield r).readDraws = s.readDraws := rfl
@[simp] theorem State.yield_trace (s : State) (r : Result) : (s.yield r).trace = s.trace := rfl
@[simp] theorem State.yield_unitStream (s : State) (r : Result) : (s.yield r).unitStream = s.unitStream := rfl
@[simp] theorem State.yield_freeCount (s : State) (r : Result) : (s.yield r).freeCount = s.freeCount := rfl

/-! ## logEvent -/

@[simp] theorem State.logEvent_acc (s : State) (e : Event) : (s.logEvent e).acc = s.acc := rfl
@[simp] theorem State.logEvent_de (s : State) (e : Event) : (s.logEvent e).de = s.de := rfl
@[simp] theorem State.logEvent_pre (s : State) (e : Event) : (s.logEvent e).pre = s.pre := rfl
@[simp] theorem State.logEvent_netPresent (s : State) (e : Event) : (s.logEvent e).netPresent = s.netPresent := rfl
@[simp] theorem State.logEvent_faulted (s : State) (e : Event) : (s.logEvent e).faulted = s.faulted := rfl
@[simp] theorem State.logEvent_faultCode (s : State) (e : Event) : (s.logEvent e).faultCode = s.faultCode := rfl
@[simp] theorem State.logEvent_cfg (s : State) (e : Event) : (s.logEvent e).cfg = s.cfg := rfl
@[simp] theorem State.logEvent_stream (s : State) (e : Event) : (s.logEvent e).stream = s.stream := rfl
@[simp] theorem State.logEvent_buf (s : State) (e : Event) : (s.logEvent e).buf = s.buf := rfl
@[simp] theorem State.logEvent_resetReq (s : State) (e : Event) : (s.logEvent e).resetReq = s.resetReq := rfl
@[simp] theorem State.logEvent_result (s : State) (e : Event) : (s.logEvent e).result = s.result := rfl
@[simp] theorem State.logEvent_eotDraws (s : State) (e : Event) : (s.logEvent e).eotDraws = s.eotDraws := rfl
@[simp] theorem State.logEvent_dataDraws (s : State) (e : Event) : (s.logEvent e).dataDraws = s.dataDraws := rfl
@[simp] theorem State.logEvent_readDraws (s : State) (e : Event) : (s.logEvent e).readDraws = s.readDraws := rfl
@[simp] theorem State.logEvent_trace (s : State) (e : Event) : (s.logEvent e).trace = s.trace ++ [e] := rfl
@[simp] theorem State.logEvent_unitStream (s : State) (e : Event) : (s.logEvent e).unitStream = s.unitStream := rfl
@[simp] theorem State.logEvent_freeCount (s : State) (e : Event) : (s.logEvent e).freeCount = s.freeCount := rfl

/-! ## withAcc -/

@[simp] theorem State.withAcc_acc (s : State) (a : List Byte) : (s.withAcc a).acc = a := rfl
@[simp] theorem State.withAcc_de (s : State) (a : List Byte) : (s.withAcc a).de = s.de := rfl
@[simp] theorem State.withAcc_pre (s : State) (a : List Byte) : (s.withAcc a).pre = s.pre := rfl
@[simp] theorem State.withAcc_netPresent (s : State) (a : List Byte) : (s.withAcc a).netPresent = s.netPresent := rfl
@[simp] theorem State.withAcc_faulted (s : State) (a : List Byte) : (s.withAcc a).faulted = s.faulted := rfl
@[simp] theorem State.withAcc_faultCode (s : State) (a : List Byte) : (s.withAcc a).faultCode = s.faultCode := rfl
@[simp] theorem State.withAcc_cfg (s : State) (a : List Byte) : (s.withAcc a).cfg = s.cfg := rfl
@[simp] theorem State.withAcc_stream (s : State) (a : List Byte) : (s.withAcc a).stream = s.stream := rfl
@[simp] theorem State.withAcc_buf (s : State) (a : List Byte) : (s.withAcc a).buf = s.buf := rfl
@[simp] theorem State.withAcc_resetReq (s : State) (a : List Byte) : (s.withAcc a).resetReq = s.resetReq := rfl
@[simp] theorem State.withAcc_result (s : State) (a : List Byte) : (s.withAcc a).result = s.result := rfl
@[simp] theorem State.withAcc_eotDraws (s : State) (a : List Byte) : (s.withAcc a).eotDraws = s.eotDraws := rfl
@[simp] theorem State.withAcc_dataDraws (s : State) (a : List Byte) : (s.withAcc a).dataDraws = s.dataDraws := rfl
@[simp] theorem State.withAcc_readDraws (s : State) (a : List Byte) : (s.withAcc a).readDraws = s.readDraws := rfl
@[simp] theorem State.withAcc_trace (s : State) (a : List Byte) : (s.withAcc a).trace = s.trace := rfl
@[simp] theorem State.withAcc_unitStream (s : State) (a : List Byte) : (s.withAcc a).unitStream = s.unitStream := rfl
@[simp] theorem State.withAcc_freeCount (s : State) (a : List Byte) : (s.withAcc a).freeCount = s.freeCount := rfl

/-! ## withBuf -/

@[simp] theorem State.withBuf_acc (s : State) (b : List Byte) : (s.withBuf b).acc = s.acc := rfl
@[simp] theorem State.withBuf_de (s : State) (b : List Byte) : (s.withBuf b).de = s.de := rfl
@[simp] theorem State.withBuf_pre (s : State) (b : List Byte) : (s.withBuf b).pre = s.pre := rfl
@[simp] theorem State.withBuf_netPresent (s : State) (b : List Byte) : (s.withBuf b).netPresent = s.netPresent := rfl
@[simp] theorem State.withBuf_faulted (s : State) (b : List Byte) : (s.withBuf b).faulted = s.faulted := rfl
@[simp] theorem State.withBuf_faultCode (s : State) (b : List Byte) : (s.withBuf b).faultCode = s.faultCode := rfl
@[simp] theorem State.withBuf_cfg (s : State) (b : List Byte) : (s.withBuf b).cfg = s.cfg := rfl
@[simp] theorem State.withBuf_stream (s : State) (b : List Byte) : (s.withBuf b).stream = s.stream := rfl
@[simp] theorem State.withBuf_buf (s : State) (b : List Byte) : (s.withBuf b).buf = some b := rfl
@[simp] theorem State.withBuf_resetReq (s : State) (b : List Byte) : (s.withBuf b).resetReq = s.resetReq := rfl
@[simp] theorem State.withBuf_result (s : State) (b : List Byte) : (s.withBuf b).result = s.result := rfl
@[simp] theorem State.withBuf_eotDraws (s : State) (b : List Byte) : (s.withBuf b).eotDraws = s.eotDraws := rfl
@[simp] theorem State.withBuf_dataDraws (s : State) (b : List Byte) : (s.withBuf b).dataDraws = s.dataDraws := rfl
@[simp] theorem State.withBuf_readDraws (s : State) (b : List Byte) : (s.withBuf b).readDraws = s.readDraws := rfl
@[simp] theorem State.withBuf_trace (s : State) (b : List Byte) : (s.withBuf b).trace = s.trace := rfl
@[simp] theorem State.withBuf_unitStream (s : State) (b : List Byte) : (s.withBuf b).unitStream = s.unitStream := rfl
@[simp] theorem State.withBuf_freeCount (s : State) (b : List Byte) : (s.withBuf b).freeCount = s.freeCount := rfl

/-! ## latchFault -/

@[simp] theorem State.latchFault_acc (s : State) (x : Raise) : (s.latchFault x).acc = s.acc := rfl
@[simp] theorem State.latchFault_de (s : State) (x : Raise) : (s.latchFault x).de = s.de := rfl
@[simp] theorem State.latchFault_pre (s : State) (x : Raise) : (s.latchFault x).pre = s.pre := rfl
@[simp] theorem State.latchFault_netPresent (s : State) (x : Raise) : (s.latchFault x).netPresent = s.netPresent := rfl
@[simp] theorem State.latchFault_faulted (s : State) (x : Raise) : (s.latchFault x).faulted = true := rfl
@[simp] theorem State.latchFault_faultCode (s : State) (x : Raise) : (s.latchFault x).faultCode = raiseCode x := rfl
@[simp] theorem State.latchFault_cfg (s : State) (x : Raise) : (s.latchFault x).cfg = s.cfg := rfl
@[simp] theorem State.latchFault_stream (s : State) (x : Raise) : (s.latchFault x).stream = s.stream := rfl
@[simp] theorem State.latchFault_buf (s : State) (x : Raise) : (s.latchFault x).buf = s.buf := rfl
@[simp] theorem State.latchFault_resetReq (s : State) (x : Raise) : (s.latchFault x).resetReq = s.resetReq := rfl
@[simp] theorem State.latchFault_result (s : State) (x : Raise) : (s.latchFault x).result = s.result := rfl
@[simp] theorem State.latchFault_eotDraws (s : State) (x : Raise) : (s.latchFault x).eotDraws = s.eotDraws := rfl
@[simp] theorem State.latchFault_dataDraws (s : State) (x : Raise) : (s.latchFault x).dataDraws = s.dataDraws := rfl
@[simp] theorem State.latchFault_readDraws (s : State) (x : Raise) : (s.latchFault x).readDraws = s.readDraws := rfl
@[simp] theorem State.latchFault_trace (s : State) (x : Raise) : (s.latchFault x).trace = s.trace := rfl
@[simp] theorem State.latchFault_unitStream (s : State) (x : Raise) : (s.latchFault x).unitStream = s.unitStream := rfl
@[simp] theorem State.latchFault_freeCount (s : State) (x : Raise) : (s.latchFault x).freeCount = s.freeCount := rfl

/-! ## report -/

@[simp] theorem State.report_acc (s : State) (i : Instr) (r : Result) : (s.report i r).acc = s.acc := rfl
@[simp] theorem State.report_de (s : State) (i : Instr) (r : Result) : (s.report i r).de = s.de := rfl
@[simp] theorem State.report_pre (s : State) (i : Instr) (r : Result) : (s.report i r).pre = s.pre := rfl
@[simp] theorem State.report_netPresent (s : State) (i : Instr) (r : Result) : (s.report i r).netPresent = s.netPresent := rfl
@[simp] theorem State.report_faulted (s : State) (i : Instr) (r : Result) : (s.report i r).faulted = s.faulted := rfl
@[simp] theorem State.report_faultCode (s : State) (i : Instr) (r : Result) : (s.report i r).faultCode = s.faultCode := rfl
@[simp] theorem State.report_cfg (s : State) (i : Instr) (r : Result) : (s.report i r).cfg = s.cfg := rfl
@[simp] theorem State.report_stream (s : State) (i : Instr) (r : Result) : (s.report i r).stream = s.stream := rfl
@[simp] theorem State.report_buf (s : State) (i : Instr) (r : Result) : (s.report i r).buf = s.buf := rfl
@[simp] theorem State.report_resetReq (s : State) (i : Instr) (r : Result) : (s.report i r).resetReq = s.resetReq := rfl
@[simp] theorem State.report_result (s : State) (i : Instr) (r : Result) : (s.report i r).result = r := rfl
@[simp] theorem State.report_eotDraws (s : State) (i : Instr) (r : Result) : (s.report i r).eotDraws = s.eotDraws := rfl
@[simp] theorem State.report_dataDraws (s : State) (i : Instr) (r : Result) : (s.report i r).dataDraws = s.dataDraws := rfl
@[simp] theorem State.report_readDraws (s : State) (i : Instr) (r : Result) : (s.report i r).readDraws = s.readDraws := rfl
@[simp] theorem State.report_trace (s : State) (i : Instr) (r : Result) : (s.report i r).trace = s.trace ++ [.returned i r] := rfl
@[simp] theorem State.report_unitStream (s : State) (i : Instr) (r : Result) : (s.report i r).unitStream = s.unitStream := rfl
@[simp] theorem State.report_freeCount (s : State) (i : Instr) (r : Result) : (s.report i r).freeCount = s.freeCount := rfl

/-! ## withFilter -/

@[simp] theorem State.withFilter_acc (s : State) (id : FilterId) (g : Filter) : (s.withFilter id g).acc = s.acc := by
  cases id <;> rfl
@[simp] theorem State.withFilter_netPresent (s : State) (id : FilterId) (g : Filter) : (s.withFilter id g).netPresent = s.netPresent := by
  cases id <;> rfl
@[simp] theorem State.withFilter_faulted (s : State) (id : FilterId) (g : Filter) : (s.withFilter id g).faulted = s.faulted := by
  cases id <;> rfl
@[simp] theorem State.withFilter_faultCode (s : State) (id : FilterId) (g : Filter) : (s.withFilter id g).faultCode = s.faultCode := by
  cases id <;> rfl
@[simp] theorem State.withFilter_cfg (s : State) (id : FilterId) (g : Filter) : (s.withFilter id g).cfg = s.cfg := by
  cases id <;> rfl
@[simp] theorem State.withFilter_stream (s : State) (id : FilterId) (g : Filter) : (s.withFilter id g).stream = s.stream := by
  cases id <;> rfl
@[simp] theorem State.withFilter_buf (s : State) (id : FilterId) (g : Filter) : (s.withFilter id g).buf = s.buf := by
  cases id <;> rfl
@[simp] theorem State.withFilter_resetReq (s : State) (id : FilterId) (g : Filter) : (s.withFilter id g).resetReq = s.resetReq := by
  cases id <;> rfl
@[simp] theorem State.withFilter_result (s : State) (id : FilterId) (g : Filter) : (s.withFilter id g).result = s.result := by
  cases id <;> rfl
@[simp] theorem State.withFilter_eotDraws (s : State) (id : FilterId) (g : Filter) : (s.withFilter id g).eotDraws = s.eotDraws := by
  cases id <;> rfl
@[simp] theorem State.withFilter_dataDraws (s : State) (id : FilterId) (g : Filter) : (s.withFilter id g).dataDraws = s.dataDraws := by
  cases id <;> rfl
@[simp] theorem State.withFilter_readDraws (s : State) (id : FilterId) (g : Filter) : (s.withFilter id g).readDraws = s.readDraws := by
  cases id <;> rfl
@[simp] theorem State.withFilter_trace (s : State) (id : FilterId) (g : Filter) : (s.withFilter id g).trace = s.trace := by
  cases id <;> rfl
@[simp] theorem State.withFilter_unitStream (s : State) (id : FilterId) (g : Filter) : (s.withFilter id g).unitStream = s.unitStream := by
  cases id <;> rfl
@[simp] theorem State.withFilter_freeCount (s : State) (id : FilterId) (g : Filter) : (s.withFilter id g).freeCount = s.freeCount := by
  cases id <;> rfl
@[simp] theorem State.withFilter_de_de (s : State) (g : Filter) : (s.withFilter .de g).de = g := rfl
@[simp] theorem State.withFilter_de_pre (s : State) (g : Filter) : (s.withFilter .de g).pre = s.pre := rfl
@[simp] theorem State.withFilter_pre_pre (s : State) (g : Filter) : (s.withFilter .pre g).pre = g := rfl
@[simp] theorem State.withFilter_pre_de (s : State) (g : Filter) : (s.withFilter .pre g).de = s.de := rfl
@[simp] theorem State.filter_de (s : State) : s.filter .de = s.de := rfl
@[simp] theorem State.filter_pre (s : State) : s.filter .pre = s.pre := rfl
@[simp] theorem State.filter_withFilter (s : State) (id : FilterId) (g : Filter) : (s.withFilter id g).filter id = g := by
  cases id <;> rfl

/-! ## unspecify and takeFault -/

@[simp] theorem State.unspecify_acc (s : State) : s.unspecify.acc = freeAccWithin s.cfg.accDepth s.freeCount := rfl
@[simp] theorem State.unspecify_de (s : State) : s.unspecify.de = freeFilter 0 s.freeCount := rfl
@[simp] theorem State.unspecify_pre (s : State) : s.unspecify.pre = freeFilter 11 s.freeCount := rfl
@[simp] theorem State.unspecify_netPresent (s : State) : s.unspecify.netPresent = Config.freeNetPresent s.freeCount := rfl
@[simp] theorem State.unspecify_faulted (s : State) : s.unspecify.faulted = s.faulted := rfl
@[simp] theorem State.unspecify_faultCode (s : State) : s.unspecify.faultCode = s.faultCode := rfl
@[simp] theorem State.unspecify_cfg (s : State) : s.unspecify.cfg = s.cfg := rfl
@[simp] theorem State.unspecify_stream (s : State) : s.unspecify.stream = s.stream := rfl
@[simp] theorem State.unspecify_buf (s : State) : s.unspecify.buf = s.buf := rfl
@[simp] theorem State.unspecify_resetReq (s : State) : s.unspecify.resetReq = s.resetReq := rfl
@[simp] theorem State.unspecify_result (s : State) : s.unspecify.result = s.result := rfl
@[simp] theorem State.unspecify_eotDraws (s : State) : s.unspecify.eotDraws = s.eotDraws := rfl
@[simp] theorem State.unspecify_dataDraws (s : State) : s.unspecify.dataDraws = s.dataDraws := rfl
@[simp] theorem State.unspecify_readDraws (s : State) : s.unspecify.readDraws = s.readDraws := rfl
@[simp] theorem State.unspecify_trace (s : State) : s.unspecify.trace = s.trace := rfl
@[simp] theorem State.unspecify_unitStream (s : State) : s.unspecify.unitStream = s.unitStream := rfl
@[simp] theorem State.unspecify_freeCount (s : State) : s.unspecify.freeCount = s.freeCount + 1 := rfl

@[simp] theorem State.takeFault_acc (s : State) (x : Raise) : (s.takeFault x).acc = freeAccWithin s.cfg.accDepth s.freeCount := rfl
@[simp] theorem State.takeFault_de (s : State) (x : Raise) : (s.takeFault x).de = freeFilter 0 s.freeCount := rfl
@[simp] theorem State.takeFault_pre (s : State) (x : Raise) : (s.takeFault x).pre = freeFilter 11 s.freeCount := rfl
@[simp] theorem State.takeFault_netPresent (s : State) (x : Raise) : (s.takeFault x).netPresent = Config.freeNetPresent s.freeCount := rfl
@[simp] theorem State.takeFault_faulted (s : State) (x : Raise) : (s.takeFault x).faulted = true := rfl
@[simp] theorem State.takeFault_faultCode (s : State) (x : Raise) : (s.takeFault x).faultCode = raiseCode x := rfl
@[simp] theorem State.takeFault_cfg (s : State) (x : Raise) : (s.takeFault x).cfg = s.cfg := rfl
@[simp] theorem State.takeFault_stream (s : State) (x : Raise) : (s.takeFault x).stream = s.stream := rfl
@[simp] theorem State.takeFault_buf (s : State) (x : Raise) : (s.takeFault x).buf = s.buf := rfl
@[simp] theorem State.takeFault_resetReq (s : State) (x : Raise) : (s.takeFault x).resetReq = s.resetReq := rfl
@[simp] theorem State.takeFault_result (s : State) (x : Raise) : (s.takeFault x).result = s.result := rfl
@[simp] theorem State.takeFault_eotDraws (s : State) (x : Raise) : (s.takeFault x).eotDraws = s.eotDraws := rfl
@[simp] theorem State.takeFault_dataDraws (s : State) (x : Raise) : (s.takeFault x).dataDraws = s.dataDraws := rfl
@[simp] theorem State.takeFault_readDraws (s : State) (x : Raise) : (s.takeFault x).readDraws = s.readDraws := rfl
@[simp] theorem State.takeFault_trace (s : State) (x : Raise) : (s.takeFault x).trace = s.trace := rfl
@[simp] theorem State.takeFault_unitStream (s : State) (x : Raise) : (s.takeFault x).unitStream = s.unitStream := rfl
@[simp] theorem State.takeFault_freeCount (s : State) (x : Raise) : (s.takeFault x).freeCount = s.freeCount + 1 := rfl

/-! ## Histories -/

@[simp] theorem Filter.withHistory_b0 (f : Filter) (x1 x2 y1 y2 : F32) : (f.withHistory x1 x2 y1 y2).b0 = f.b0 := rfl
@[simp] theorem Filter.withHistory_b1 (f : Filter) (x1 x2 y1 y2 : F32) : (f.withHistory x1 x2 y1 y2).b1 = f.b1 := rfl
@[simp] theorem Filter.withHistory_b2 (f : Filter) (x1 x2 y1 y2 : F32) : (f.withHistory x1 x2 y1 y2).b2 = f.b2 := rfl
@[simp] theorem Filter.withHistory_a0 (f : Filter) (x1 x2 y1 y2 : F32) : (f.withHistory x1 x2 y1 y2).a0 = f.a0 := rfl
@[simp] theorem Filter.withHistory_a1 (f : Filter) (x1 x2 y1 y2 : F32) : (f.withHistory x1 x2 y1 y2).a1 = f.a1 := rfl
@[simp] theorem Filter.withHistory_a2 (f : Filter) (x1 x2 y1 y2 : F32) : (f.withHistory x1 x2 y1 y2).a2 = f.a2 := rfl
@[simp] theorem Filter.withHistory_g (f : Filter) (x1 x2 y1 y2 : F32) : (f.withHistory x1 x2 y1 y2).g = f.g := rfl
@[simp] theorem Filter.withHistory_x1 (f : Filter) (x1 x2 y1 y2 : F32) : (f.withHistory x1 x2 y1 y2).x1 = x1 := rfl
@[simp] theorem Filter.withHistory_x2 (f : Filter) (x1 x2 y1 y2 : F32) : (f.withHistory x1 x2 y1 y2).x2 = x2 := rfl
@[simp] theorem Filter.withHistory_y1 (f : Filter) (x1 x2 y1 y2 : F32) : (f.withHistory x1 x2 y1 y2).y1 = y1 := rfl
@[simp] theorem Filter.withHistory_y2 (f : Filter) (x1 x2 y1 y2 : F32) : (f.withHistory x1 x2 y1 y2).y2 = y2 := rfl

/-- Replacing the history keeps the constants. -/
theorem Filter.withHistory_hasConstants (f : Filter) (fp : Fp) (p : FilterParams) (x1 x2 y1 y2 : F32) (h : f.hasConstants fp p) :
    (f.withHistory x1 x2 y1 y2).hasConstants fp p := h

/-- A loaded instance has its parameters' constants. -/
theorem loadFilter_hasConstants (fp : Fp) (p : FilterParams) : (loadFilter fp p).hasConstants fp p := by
  simp [Filter.hasConstants, loadFilter]

end Sys2Proof.Machine
end

