-- ==== Sys2Proof/Laws/Ops.lean ====
section
/-! SUPPORT. One lemma per shared operation that says once everything it can do. -/

namespace Sys2Proof.Machine

/-! ## Sequencing -/

@[simp] theorem andThen_ok {α β : Type} (v : α) (s : State) (f : α → State → Ran β) : (Ran.ok v s).andThen f = f v s := rfl
@[simp] theorem andThen_raised {α β : Type} (x : Raise) (s : State) (f : α → State → Ran β) :
    (Ran.raised x s : Ran α).andThen f = .raised x s := rfl
@[simp] theorem andThen_stuck {α β : Type} (r : Refusal) (f : α → State → Ran β) :
    (Ran.stuck r : Ran α).andThen f = .stuck r := rfl

/-! ## Reporting -/

theorem runCommand_refused {i : Instr} {body : State → Ran Result} {s : State} (h : s.faulted = true) :
    runCommand i body s = .next (s.report i .refused) := by
  simp [runCommand, h]

theorem runCommand_ok {i : Instr} {body : State → Ran Result} {s t : State} {r : Result} (h : s.faulted = false)
    (hb : body s = .ok r t) : runCommand i body s = .next (t.report i r) := by
  simp [runCommand, h, hb]

theorem runCommand_raised {i : Instr} {body : State → Ran Result} {s t : State} {x : Raise} (h : s.faulted = false)
    (hb : body s = .raised x t) : runCommand i body s = .next ((t.takeFault x).report i (.fault x)) := by
  simp [runCommand, h, hb]

/-- Everything a command that reaches a next state can have done. -/
theorem runCommand_next {i : Instr} {body : State → Ran Result} {s s' : State} (h : runCommand i body s = .next s') :
    (s.faulted = true ∧ s' = s.report i .refused) ∨
    (s.faulted = false ∧ ∃ r t, body s = .ok r t ∧ s' = t.report i r) ∨
    (s.faulted = false ∧ ∃ x t, body s = .raised x t ∧ s' = (t.takeFault x).report i (.fault x)) := by
  unfold runCommand at h
  split at h
  · exact .inl ⟨‹_›, by simpa using h.symm⟩
  · rename_i hf
    have hf : s.faulted = false := by simpa using hf
    split at h
    · exact .inr (.inl ⟨hf, _, _, ‹_›, by simpa using h.symm⟩)
    · exact .inr (.inr ⟨hf, _, _, ‹_›, by simpa using h.symm⟩)
    · cases h

theorem runInner_refused {body : State → Ran Result} {s : State} (h : s.faulted = true) :
    runInner body s = .next (s.yield .refused) := by
  simp [runInner, h]

theorem runInner_ok {body : State → Ran Result} {s t : State} {r : Result} (h : s.faulted = false)
    (hb : body s = .ok r t) : runInner body s = .next (t.yield r) := by
  simp [runInner, h, hb]

theorem runInner_raised {body : State → Ran Result} {s t : State} {x : Raise} (h : s.faulted = false)
    (hb : body s = .raised x t) : runInner body s = .next ((t.takeFault x).yield (.fault x)) := by
  simp [runInner, h, hb]

/-- Everything an arm or a unit that reaches a next state can have done. -/
theorem runInner_next {body : State → Ran Result} {s s' : State} (h : runInner body s = .next s') :
    (s.faulted = true ∧ s' = s.yield .refused) ∨
    (s.faulted = false ∧ ∃ r t, body s = .ok r t ∧ s' = t.yield r) ∨
    (s.faulted = false ∧ ∃ x t, body s = .raised x t ∧ s' = (t.takeFault x).yield (.fault x)) := by
  unfold runInner at h
  split at h
  · exact .inl ⟨‹_›, by simpa using h.symm⟩
  · rename_i hf
    have hf : s.faulted = false := by simpa using hf
    split at h
    · exact .inr (.inl ⟨hf, _, _, ‹_›, by simpa using h.symm⟩)
    · exact .inr (.inr ⟨hf, _, _, ‹_›, by simpa using h.symm⟩)
    · cases h

/-! ## Fault entry -/

theorem freeAccWithin_length_le {depth n : Nat} : (freeAccWithin (some depth) n).length ≤ depth := List.length_take_le ..

/-- Fault entry keeps ACC within its depth (R14). -/
theorem takeFault_accWithinDepth (x : Raise) (s : State) : AccWithinDepth (s.takeFault x) := by
  intro depth h
  rw [State.takeFault_cfg] at h
  rw [State.takeFault_acc, h]
  exact freeAccWithin_length_le

/-- What fault entry fixes, at whichever port the operation reports (R146). -/
theorem takeFault_entered (x : Raise) (s : State) : FaultEntered (raiseCode x) x s ((s.takeFault x).yield (.fault x)) :=
  ⟨rfl, rfl, rfl, rfl, rfl, rfl, rfl, rfl, rfl, rfl, rfl⟩

theorem runCommand_raised_entered {i : Instr} {body : State → Ran Result} {s t : State} {x : Raise} (h : s.faulted = false)
    (hb : body s = .raised x t) : ∃ u, runCommand i body s = .next u ∧ FaultEntered (raiseCode x) x t u ∧
      u.trace = t.trace ++ [.returned i (.fault x)] :=
  ⟨_, runCommand_raised h hb, takeFault_entered x t, rfl⟩

theorem runInner_raised_entered {body : State → Ran Result} {s t : State} {x : Raise} (h : s.faulted = false)
    (hb : body s = .raised x t) :
    ∃ u, runInner body s = .next u ∧ FaultEntered (raiseCode x) x t u ∧ u.trace = t.trace :=
  ⟨_, runInner_raised h hb, takeFault_entered x t, rfl⟩

/-! ## The accumulator -/

theorem accAppend_ok {bytes : List Byte} {s t : State} {u : Unit} (h : accAppend bytes s = .ok u t) :
    accFits s.cfg.accDepth (s.acc.length + bytes.length) = true ∧ t = s.withAcc (s.acc ++ bytes) := by
  unfold accAppend at h
  split at h
  · exact ⟨‹_›, by simpa using h.symm⟩
  · cases h

theorem accAppend_raised {bytes : List Byte} {s t : State} {x : Raise} (h : accAppend bytes s = .raised x t) :
    accFits s.cfg.accDepth (s.acc.length + bytes.length) = false ∧ t = s ∧
      x = .accOverflow (s.acc.length + bytes.length) := by
  unfold accAppend at h
  split at h
  · cases h
  · rename_i hf
    cases h
    exact ⟨by simpa using hf, rfl, rfl⟩

theorem accAppend_not_stuck {bytes : List Byte} {s : State} {r : Refusal} : accAppend bytes s ≠ .stuck r := by
  unfold accAppend
  split <;> simp

theorem accDrain_of_le {n : Nat} {s : State} (h : n ≤ s.acc.length) :
    accDrain n s = .ok (s.acc.take n) (s.withAcc (s.acc.drop n)) := by
  simp [accDrain, Nat.not_lt.mpr h]

theorem accDrain_of_lt {n : Nat} {s : State} (h : s.acc.length < n) : accDrain n s = .raised (.accUnderflow n) s := by
  simp [accDrain, h]

/-! ## The network transactions -/

/-- writeEOT takes an answer and logs it; of the rest only the answer queue and the free-value counter change. -/
theorem netWriteEot_spec (s : State) :
    ∃ draws k, (netWriteEot s).2 =
      { s with eotDraws := draws, freeCount := k, trace := s.trace ++ [.writeEot (netWriteEot s).1] } := by
  unfold netWriteEot
  split
  · exact ⟨_, s.freeCount, rfl⟩
  · exact ⟨s.eotDraws, _, rfl⟩

/-- writeData takes an answer and logs the bytes with it; of the rest only the queue and the counter change. -/
theorem netWriteData_spec (bytes : List Byte) (s : State) :
    ∃ draws k, (netWriteData bytes s).2 =
      { s with dataDraws := draws, freeCount := k,
               trace := s.trace ++ [.writeData bytes (netWriteData bytes s).1] } := by
  unfold netWriteData
  split
  · exact ⟨_, s.freeCount, rfl⟩
  · exact ⟨s.dataDraws, _, rfl⟩

/-- read yields at most what was asked for and logs it; of the rest only the queue and the counter change. -/
theorem netRead_ok {maxLength : Nat} {s t : State} {bytes : List Byte} (h : netRead maxLength s = .ok bytes t) :
    bytes.length ≤ maxLength ∧
      ∃ draws k, t = { s with readDraws := draws, freeCount := k, trace := s.trace ++ [.read maxLength bytes] } := by
  unfold netRead at h
  split at h
  · split at h
    · cases h
    · cases h
      exact ⟨by omega, _, s.freeCount, rfl⟩
  · cases h
    exact ⟨by simp, s.readDraws, _, rfl⟩

/-- read yields the scheduled bytes or a free value, and logs them. -/
theorem netRead_of_yields {s t : State} {rd : List Byte} (h : ReadYields s rd t) :
    netRead s.cfg.netReadMax s = .ok rd (t.logEvent (.read s.cfg.netReadMax rd)) := by
  obtain ⟨more, hd, hl, rfl⟩ | ⟨hd, rfl, rfl⟩ := h
  · simp [netRead, hd, Nat.not_lt.mpr hl]
  · simp [netRead, hd]

theorem netRead_not_raised {maxLength : Nat} {s t : State} {x : Raise} : netRead maxLength s ≠ .raised x t := by
  unfold netRead
  split
  · split <;> simp
  · simp

/-! ## Reset -/

/-- The first violated check exists exactly when the parameters are not legal. -/
theorem firstInvalid_eq_none (p : Params) : firstInvalid p = none ↔ ConfigLegal p := by
  simp only [firstInvalid, Option.map_eq_none_iff, List.find?_eq_none, configChecks, constChecks, tagChecks, ConfigLegal,
    filterLegal, Tags.legal, Config.groupBytes, Config.netGroupBytes, Config.groupSamples, Config.netBits]
  simp
  tauto

theorem legalFilter_legal (p : FilterParams) : filterLegal .binary32 (legalFilter .binary32 p) = true := by
  unfold legalFilter
  split
  · assumption
  · decide

/-- Reset with a legal configuration runs; nothing of the old state is left in the block (R166). -/
theorem load_of_legal {s : State} (h : ConfigLegal s.cfg) : s.load =
    { s with acc := [], de := loadFilter s.cfg.fp s.cfg.de, pre := loadFilter s.cfg.fp s.cfg.pre, netPresent := s.cfg.netPresent,
             faulted := false, faultCode := 0, resetReq := false, result := .nothing } := by
  simp [State.load, (firstInvalid_eq_none _).mpr h]

/-- Reset with a violated check ends in ConfigInvalid; the parameters and the ports stay (R167). -/
theorem load_of_invalid {s : State} {p : ConfigParam} (h : firstInvalid s.cfg = some p) :
    s.load.faulted = true ∧ s.load.faultCode = 0x09 ∧ s.load.result = .fault (.configInvalid p) ∧
      s.load.cfg = s.cfg ∧ s.load.resetReq = false := by
  simp [State.load, h, raiseCode]

/-- The installed parameters are legal. -/
theorem installedParams_legal : ConfigLegal installedParams := by
  refine ⟨legalFilter_legal _, legalFilter_legal _, ?_, ?_, ?_, ?_⟩ <;> decide

/-- The reset state is what a reset with the installed parameters writes. -/
theorem reset_eq_load : State.reset = { State.reset with resetReq := true }.load := by
  have h : firstInvalid installedParams = none := (firstInvalid_eq_none _).mpr installedParams_legal
  simp [State.load, State.reset, h]

end Sys2Proof.Machine
end

