-- ==== Sys2Proof/Laws/Pipeline.lean ====
section
/-! SUPPORT. The walks of the two pipelines: lengths, splitting, and what they keep. -/

namespace Sys2Proof.Machine

variable {fp : Fp}

/-! ## The filter -/

theorem filterStep_hasConstants (f : Filter) (q : Fp) (p : FilterParams) (x : F32) (h : f.hasConstants q p) :
    (filterStep fp f x).2.hasConstants q p := h

theorem filterRun_hasConstants (xs : List F32) (f : Filter) (q : Fp) (p : FilterParams) (h : f.hasConstants q p) :
    (filterRun fp f xs).2.hasConstants q p := by
  induction xs generalizing f with
  | nil => exact h
  | cons x xs ih => exact ih (filterStep fp f x).2 (filterStep_hasConstants f q p x h)

@[simp] theorem filterRun_length (xs : List F32) (f : Filter) : (filterRun fp f xs).1.length = xs.length := by
  induction xs generalizing f with
  | nil => rfl
  | cons x xs ih => simp [filterRun, ih]

theorem filterRun_append (xs ys : List F32) (f : Filter) :
    filterRun fp f (xs ++ ys) =
      ((filterRun fp f xs).1 ++ (filterRun fp (filterRun fp f xs).2 ys).1, (filterRun fp (filterRun fp f xs).2 ys).2) := by
  induction xs generalizing f with
  | nil => rfl
  | cons x xs ih => simp [filterRun, ih]

/-! ## Modem to network -/

theorem sampleToNet_ok {f f' : Filter} {u : Sample12} {out : List Byte} (h : sampleToNet fp f u = .ok (out, f')) :
    f' = (filterStep fp f (decode12 fp u)).2 ∧ ∃ w, encode16 fp (filterStep fp f (decode12 fp u)).1 = .ok w ∧ out = sampleBytes w := by
  unfold sampleToNet at h
  split at h
  · cases h
    exact ⟨rfl, _, ‹_›, rfl⟩
  · cases h

@[simp] theorem except_bind_ok {ε α β : Type} (a : α) (f : α → Except ε β) : (Except.ok a : Except ε α).bind f = f a := rfl
@[simp] theorem except_bind_error {ε α β : Type} (e : ε) (f : α → Except ε β) :
    (Except.error e : Except ε α).bind f = .error e := rfl

theorem except_bind_eq_ok {ε α β : Type} {m : Except ε α} {f : α → Except ε β} {b : β} (h : m.bind f = .ok b) :
    ∃ a, m = .ok a ∧ f a = .ok b := by
  cases m with
  | error e => cases h
  | ok a => exact ⟨a, rfl, h⟩

/-- A group that reaches the network: two steps of the filter and two encoded samples. -/
theorem groupToNet_ok {f f' : Filter} {t0 t1 t2 : Byte} {out : List Byte} (h : groupToNet fp f t0 t1 t2 = .ok (out, f')) :
    ∃ wA wB, encode16 fp (filterStep fp f (decode12 fp (unpackTriplet t0 t1 t2).1)).1 = .ok wA ∧
      encode16 fp (filterStep fp (filterStep fp f (decode12 fp (unpackTriplet t0 t1 t2).1)).2
        (decode12 fp (unpackTriplet t0 t1 t2).2)).1 = .ok wB ∧
      out = sampleBytes wA ++ sampleBytes wB ∧
      f' = (filterStep fp (filterStep fp f (decode12 fp (unpackTriplet t0 t1 t2).1)).2 (decode12 fp (unpackTriplet t0 t1 t2).2)).2 := by
  obtain ⟨⟨oA, fA⟩, hA, h⟩ := except_bind_eq_ok h
  obtain ⟨⟨oB, fB⟩, hB, h⟩ := except_bind_eq_ok h
  obtain ⟨rfl, wA, hwA, rfl⟩ := sampleToNet_ok hA
  obtain ⟨rfl, wB, hwB, rfl⟩ := sampleToNet_ok hB
  simp only [Except.ok.injEq, Prod.mk.injEq] at h
  exact ⟨wA, wB, hwA, hwB, h.1.symm, h.2.symm⟩

theorem groupsToNet_nil (f : Filter) : groupsToNet fp f [] = .ok ([], f) := by
  simp [groupsToNet]

theorem groupsToNet_cons (f : Filter) (t0 t1 t2 : Byte) (rest : List Byte) :
    groupsToNet fp f (t0 :: t1 :: t2 :: rest) =
      (groupToNet fp f t0 t1 t2).bind fun g => (groupsToNet fp g.2 rest).bind fun r => .ok (g.1 ++ r.1, r.2) := by
  rw [groupsToNet]

/-- Whole groups first, then the rest: the pipeline runs in stream order. -/
theorem groupsToNet_append (k : Nat) (d e : List Byte) (f : Filter) (hd : d.length = 3 * k) :
    groupsToNet fp f (d ++ e) =
      (groupsToNet fp f d).bind fun g => (groupsToNet fp g.2 e).bind fun r => .ok (g.1 ++ r.1, r.2) := by
  induction k generalizing d f with
  | zero =>
    have : d = [] := List.length_eq_zero_iff.mp (by omega)
    subst this
    rw [List.nil_append, groupsToNet_nil, except_bind_ok]
    cases groupsToNet fp f e <;> rfl
  | succ k ih =>
    match d, hd with
    | t0 :: t1 :: t2 :: rest, hd =>
      have hr : rest.length = 3 * k := by simp at hd; omega
      simp only [List.cons_append, groupsToNet_cons]
      cases groupToNet fp f t0 t1 t2 with
      | error b => rfl
      | ok g =>
        simp only [except_bind_ok, ih rest g.2 hr]
        cases groupsToNet fp g.2 rest with
        | error b => rfl
        | ok r =>
          simp only [except_bind_ok]
          cases groupsToNet fp r.2 e with
          | error b => rfl
          | ok q => simp only [except_bind_ok, List.append_assoc]

/-- Four network bytes for every whole group. -/
theorem groupsToNet_length (k : Nat) (d : List Byte) (f f' : Filter) (out : List Byte) (hd : d.length = 3 * k)
    (h : groupsToNet fp f d = .ok (out, f')) : out.length = 4 * k := by
  induction k generalizing d f out with
  | zero =>
    have : d = [] := List.length_eq_zero_iff.mp (by omega)
    subst this
    rw [groupsToNet_nil] at h
    cases h
    rfl
  | succ k ih =>
    match d, hd with
    | t0 :: t1 :: t2 :: rest, hd =>
      rw [groupsToNet_cons] at h
      obtain ⟨⟨oG, fG⟩, hG, h⟩ := except_bind_eq_ok h
      obtain ⟨⟨oR, fR⟩, hR, h⟩ := except_bind_eq_ok h
      obtain ⟨wA, wB, -, -, rfl, -⟩ := groupToNet_ok hG
      simp only [Except.ok.injEq, Prod.mk.injEq] at h
      obtain ⟨rfl, rfl⟩ := h
      have := ih rest fG oR (by simp at hd; omega) hR
      simp [sampleBytes, this]
      omega

/-- A property of an instance that every step keeps is kept by the pipeline. -/
theorem groupsToNet_keeps (P : Filter → Prop) (hP : ∀ f x, P f → P (filterStep fp f x).2) (k : Nat) (d : List Byte)
    (f f' : Filter) (out : List Byte) (hd : d.length = 3 * k) (h : groupsToNet fp f d = .ok (out, f')) (hf : P f) : P f' := by
  induction k generalizing d f out with
  | zero =>
    have : d = [] := List.length_eq_zero_iff.mp (by omega)
    subst this
    rw [groupsToNet_nil] at h
    cases h
    exact hf
  | succ k ih =>
    match d, hd with
    | t0 :: t1 :: t2 :: rest, hd =>
      rw [groupsToNet_cons] at h
      obtain ⟨⟨oG, fG⟩, hG, h⟩ := except_bind_eq_ok h
      obtain ⟨⟨oR, fR⟩, hR, h⟩ := except_bind_eq_ok h
      obtain ⟨wA, wB, -, -, -, rfl⟩ := groupToNet_ok hG
      simp only [Except.ok.injEq, Prod.mk.injEq] at h
      obtain ⟨rfl, rfl⟩ := h
      exact ih rest _ oR (by simp at hd; omega) hR (hP _ _ (hP _ _ hf))

/-! ## Sizes -/

/-- The amount a DATA command drains is a whole number of groups, at most what is buffered. -/
theorem drainAmount_eq (s : State) :
    drainAmount s = 3 * (min s.acc.length s.cfg.drainCap / 3) ∧ drainAmount s ≤ s.acc.length := by
  simp only [drainAmount, accSize, Config.groupBytes]
  omega

@[simp] theorem pairSamples_length (bs : List Byte) : (pairSamples bs).length = bs.length / 2 := by
  induction bs using pairSamples.induct with
  | case1 p0 p1 rest ih => simp [pairSamples, ih]; omega
  | case2 bs h =>
    match bs, h with
    | [], _ => rfl
    | [_], _ => simp [pairSamples]
    | p0 :: p1 :: rest, h => exact absurd rfl (h p0 p1 rest)

/-- Packing writes at most three bytes for every pair, and exactly three where nothing fails. -/
theorem packPairs_length (fs : List F32) :
    (packPairs fp fs).1.length ≤ 3 * (fs.length / 2) ∧
      ((packPairs fp fs).2 = none → (packPairs fp fs).1.length = 3 * (fs.length / 2)) := by
  induction fs using packPairs.induct fp with
  | case1 fa fb rest bits h => simp [packPairs, h]
  | case2 fa fb rest a h bits h' => simp [packPairs, h, h']
  | case3 fa fb rest a h b h' ih =>
    simp only [packPairs, h, h', List.length_append, List.length_cons, packTriplet, List.length_nil]
    refine ⟨by omega, fun hn => ?_⟩
    have := ih.2 hn
    omega
  | case4 fs h =>
    match fs, h with
    | [], _ => simp [packPairs]
    | [_], _ => simp [packPairs]
    | fa :: fb :: rest, h => exact absurd rfl (h fa fb rest)

/-- Bytes at and past the written count are unchanged (R46). -/
theorem overwriteFront_getElem? (buf out : List Byte) (i : Nat) (h : out.length ≤ i) :
    (overwriteFront buf out)[i]? = buf[i]? := by
  simp [overwriteFront, List.getElem?_append_right h, Nat.add_sub_cancel' h]

end Sys2Proof.Machine
end

