-- ==== Sys2Proof/Laws/Frame.lean ====
section
/-! SUPPORT. The frame of the bodies of the operations, proved once and composed. -/

namespace Sys2Proof.Machine

/-- What no body of an operation changes: the parameters, NET_PRESENT, the status registers and the constants; and it keeps ACC
within its depth. -/
structure BodyFrame (s t : State) : Prop where
  cfg : t.cfg = s.cfg
  net : t.netPresent = s.netPresent
  faulted : t.faulted = s.faulted
  code : t.faultCode = s.faultCode
  deC : t.de.withHistory 0 0 0 0 = s.de.withHistory 0 0 0 0
  preC : t.pre.withHistory 0 0 0 0 = s.pre.withHistory 0 0 0 0
  depth : AccWithinDepth s → AccWithinDepth t

theorem BodyFrame.refl (s : State) : BodyFrame s s := ⟨rfl, rfl, rfl, rfl, rfl, rfl, id⟩

theorem BodyFrame.trans {s t u : State} (a : BodyFrame s t) (b : BodyFrame t u) : BodyFrame s u :=
  ⟨b.cfg.trans a.cfg, b.net.trans a.net, b.faulted.trans a.faulted, b.code.trans a.code, b.deC.trans a.deC,
    b.preC.trans a.preC, fun h => b.depth (a.depth h)⟩

theorem accAppend_frame {p s u t} (h : accAppend p s = .ok u t) : BodyFrame s t := by
  obtain ⟨hf, rfl⟩ := accAppend_ok h
  refine ⟨rfl, rfl, rfl, rfl, rfl, rfl, fun _ d hd => ?_⟩
  simp only [State.withAcc_cfg] at hd
  simpa [accFits, hd] using hf

theorem withAcc_drop_frame (s : State) (n) : BodyFrame s (s.withAcc (s.acc.drop n)) :=
  ⟨rfl, rfl, rfl, rfl, rfl, rfl, fun h d hd => by have := h d hd; simp; omega⟩

theorem netWriteData_frame (b s) : BodyFrame s (netWriteData b s).2 := by
  obtain ⟨d, k, h⟩ := netWriteData_spec b s
  rw [h]; exact ⟨rfl, rfl, rfl, rfl, rfl, rfl, id⟩

theorem netWriteEot_frame (s) : BodyFrame s (netWriteEot s).2 := by
  obtain ⟨d, k, h⟩ := netWriteEot_spec s
  rw [h]; exact ⟨rfl, rfl, rfl, rfl, rfl, rfl, id⟩

theorem netRead_frame {m s b t} (h : netRead m s = .ok b t) : BodyFrame s t := by
  obtain ⟨-, d, k, rfl⟩ := netRead_ok h
  exact ⟨rfl, rfl, rfl, rfl, rfl, rfl, id⟩

theorem withFilter_frame (s : State) (id) (f) (h : f.withHistory 0 0 0 0 = (s.filter id).withHistory 0 0 0 0) :
    BodyFrame s (s.withFilter id f) := by
  cases id <;> refine ⟨rfl, rfl, rfl, rfl, ?_, ?_, fun h => h⟩ <;> first | exact h | rfl

theorem filterRun_constants {fp : Fp} (xs f) : (filterRun fp f xs).2.withHistory 0 0 0 0 = f.withHistory 0 0 0 0 := by
  induction xs generalizing f with
  | nil => rfl
  | cons x xs ih => exact (ih _).trans rfl

/-- The frame of whatever a body ends in. -/
def RanFrame (s : State) : Ran Result → Prop
  | .ok _ t => BodyFrame s t
  | .raised _ t => BodyFrame s t
  | .stuck _ => True

theorem drainAmount_triples (t : State) : ∃ k, drainAmount t = 3 * k := ⟨_, (drainAmount_eq t).1⟩

theorem groupsToNet_constants {fp : Fp} {k d f f' out} (hd : d.length = 3 * k) (h : groupsToNet fp f d = .ok (out, f')) :
    f'.withHistory 0 0 0 0 = f.withHistory 0 0 0 0 :=
  groupsToNet_keeps (fun g => g.withHistory 0 0 0 0 = f.withHistory 0 0 0 0) (fun _ _ h => h) k d f f' out hd h rfl

theorem armData_frame (p s) : RanFrame s (armData p s) := by
  unfold armData
  split
  · cases ha : accAppend p s with
    | stuck r => exact absurd ha accAppend_not_stuck
    | raised x t => rw [andThen_raised]; obtain ⟨-, rfl, -⟩ := accAppend_raised ha; exact BodyFrame.refl _
    | ok u t =>
      rw [andThen_ok]
      have f1 := accAppend_frame ha
      split
      · exact f1
      · rw [accDrain_of_le (drainAmount_eq t).2, andThen_ok]
        have f2 := f1.trans (withAcc_drop_frame t (drainAmount t))
        unfold sendGroups
        split
        · exact f2
        · rename_i out f hg
          obtain ⟨k, hk⟩ := drainAmount_triples t
          have hl : (t.acc.take (drainAmount t)).length = 3 * k := by have := (drainAmount_eq t).2; simp [hk]; omega
          exact (f2.trans (withFilter_frame _ .de f (groupsToNet_constants hl hg))).trans (netWriteData_frame _ _)
  · exact BodyFrame.refl _

theorem bodyN2m_frame (c s) : RanFrame s (bodyN2m c s) := by
  unfold bodyN2m
  split
  · exact BodyFrame.refl _
  · split
    · exact BodyFrame.refl _
    · split
      · cases hr : netRead s.cfg.netReadMax s with
        | stuck r => trivial
        | raised x t => exact absurd hr netRead_not_raised
        | ok rd t =>
          rw [andThen_ok]
          have f1 := netRead_frame hr
          split
          · exact f1
          · unfold receiveSamples
            have f2 := f1.trans (withFilter_frame t .pre _ (filterRun_constants (fp := t.cfg.fp) ((pairSamples rd).map (decode16 t.cfg.fp)) t.pre))
            have f3 : ∀ b, BodyFrame s ((t.withFilter .pre (filterRun t.cfg.fp t.pre ((pairSamples rd).map (decode16 t.cfg.fp))).2).withBuf b) :=
              fun b => f2.trans ⟨rfl, rfl, rfl, rfl, rfl, rfl, id⟩
            simp only
            split <;> exact f3 _
      · exact BodyFrame.refl _

theorem bodyM2n_frame (c s) : RanFrame s (bodyM2n c s) := by
  unfold bodyM2n
  split
  · exact BodyFrame.refl _
  · exact BodyFrame.refl _
  · unfold dispatchTag
    split
    · exact BodyFrame.refl _
    · unfold armEot; split
      · exact netWriteEot_frame s
      · exact BodyFrame.refl _
    · exact armData_frame _ _
    · exact BodyFrame.refl _

end Sys2Proof.Machine
end

