-- ==== Sys2Proof/Laws/PerInstr.lean ====
section
/-! SUPPORT. Statements about every operation as syntax, one lemma per constructor. -/

namespace Sys2Proof.Laws.RecordLength

/-- The bytes of a well-formed operation's record are as many as its first bytes tell a decoder (R57); an arm's chunk carries no
length of its own (R53). -/
def Statement (i : Instr) : Prop :=
  ∀ t, i.level ≠ .arm → i.wellFormed t = true → recordLength (encode t i) = (encode t i).length

theorem countedLength (c : Byte) (h : c = codeM2n ∨ c = codeAccAppend) (bs : List Byte) (hb : bs.length < 65536) :
    recordLength (c :: counted bs) = (c :: counted bs).length := by
  have h2 : [(counted bs).getD 0 0, (counted bs).getD 1 0] = beBytes 2 bs.length := by
    simp [counted, beBytes]
  rw [recordLength, if_pos h, h2, beNat_beBytes, Nat.mod_eq_of_lt (by simpa using hb)]
  simp [counted]
  omega

theorem m2n (chunk : Option (List Byte)) : Statement (.m2n chunk) := by
  intro t _ hw
  cases chunk with
  | none => cases hw
  | some bs =>
    simp only [Instr.wellFormed, Config.chunkMax, decide_eq_true_eq] at hw
    exact countedLength _ (.inl rfl) bs (by omega)

theorem n2m (capacity : BitVec 16) : Statement (.n2m capacity) := fun _ _ _ => rfl
theorem tick (ms : BitVec 32) : Statement (.tick ms) := fun _ _ _ => rfl
theorem enable (flag : Byte) : Statement (.enable flag) := fun _ _ _ => rfl
theorem m2nHeader (payload : List Byte) : Statement (.m2nHeader payload) := fun _ h => absurd rfl h
theorem m2nData (payload : List Byte) : Statement (.m2nData payload) := fun _ h => absurd rfl h
theorem m2nEot (payload : List Byte) : Statement (.m2nEot payload) := fun _ h => absurd rfl h
theorem m2nOther (tag : Byte) (payload : List Byte) : Statement (.m2nOther tag payload) := fun _ h => absurd rfl h

theorem accAppend (bytes : List Byte) : Statement (.accAppend bytes) := by
  intro t _ hw
  simp only [Instr.wellFormed, Config.chunkMax, decide_eq_true_eq] at hw
  exact countedLength _ (.inr rfl) bytes (by omega)

theorem accSize : Statement .accSize := fun _ _ _ => rfl
theorem accDrain (n : Nat) : Statement (.accDrain n) := fun _ _ _ => rfl
theorem unpack12 (t0 t1 t2 : Byte) : Statement (.unpack12 t0 t1 t2) := fun _ _ _ => rfl

theorem pack12 (a b : Int) : Statement (.pack12 a b) := by
  intro t _ _
  simp [encode, recordLength, codePack12, codeM2n, codeAccAppend, codeN2m, codeDec12f, codeDec16f, codeDes16, codeSer16,
    codeTick, codeAccDrain, codeEnc16, codeEnc12, codeEnable, codeUnpack12]

theorem dec12f (u : Sample12) : Statement (.dec12f u) := fun _ _ _ => rfl
theorem enc16 (f : F32) : Statement (.enc16 f) := fun _ _ _ => rfl
theorem dec16f (u : Sample16) : Statement (.dec16f u) := fun _ _ _ => rfl
theorem enc12 (f : F32) : Statement (.enc12 f) := fun _ _ _ => rfl
theorem des16 (p0 p1 : Byte) : Statement (.des16 p0 p1) := fun _ _ _ => rfl
theorem ser16 (u : Sample16) : Statement (.ser16 u) := fun _ _ _ => rfl
theorem biquadStep (f : FilterId) (x : F32) : Statement (.biquadStep f x) := fun _ _ _ => rfl

end Sys2Proof.Laws.RecordLength
end

