-- ==== Sys2Proof/Tests/Slice0.lean ====
section
/-! SUPPORT. The model's own tests: ill-formed operations that the check refuses, records written out from the encodings of
30_encoding.md, the vectors of 95_test_vectors.md, and a witness for the hypotheses of every obligation that has some. -/

namespace Sys2Proof.Tests

set_option Elab.async false

open Sys2Proof.Machine

/-! ## Benches -/

/-- Tags of 95_test_vectors.md "Conventions". -/
def tags : Tags := { header := 0x00, data := 0x01, eot := 0x03 }

/-- T0 of 95_test_vectors.md 2.3. -/
def t0 : FilterParams :=
  { b0 := 0x3F800000, b1 := 0, b2 := 0, a0 := 0x3F800000, a1 := 0, a2 := 0, gain := .linear 0x3F800000 }
/-- T1. -/
def t1 : FilterParams :=
  { b0 := 0x3FC00000, b1 := 0xBF400000, b2 := 0x3E000000, a0 := 0x40000000, a1 := 0xBF000000, a2 := 0x3E800000,
    gain := .linear 0x3F800000 }
/-- T2: T1 with 20 dB. -/
def t2 : FilterParams := { t1 with gain := .decibel 20 }
/-- T3. -/
def t3 : FilterParams := { t0 with b1 := 0xBF700000 }
/-- T5. -/
def t5 : FilterParams :=
  { b0 := 0x3DCCCCCD, b1 := 0x3E4CCCCD, b2 := 0x3E99999A, a0 := 0x3F800000, a1 := 0xBECCCCCD, a2 := 0x3D4CCCCD,
    gain := .decibel 0 }
/-- T6. -/
def t6 : FilterParams := { t0 with b0 := 0x7F000000, a0 := 0x3F000000 }

/-- Parameters with the sizes of 00_scope.md R6. -/
def config (de pre : FilterParams) : Params :=
  { drainCap := 255, outCapMax := 252, netReadMax := 168, tags := tags, de := de, pre := pre, netPresent := true,
    accDepth := none, fp := .binary32 }

/-- The reset state with these parameters, the collaborator answering every write with true. -/
def bench (de pre : FilterParams) : State :=
  { acc := [], de := loadFilter .binary32 de, pre := loadFilter .binary32 pre, netPresent := true, faulted := false, faultCode := 0,
    cfg := config de pre, stream := [], buf := some (List.replicate 8 0xEE), resetReq := false, result := .nothing,
    eotDraws := [true], dataDraws := [true, true, true], readDraws := [], trace := [], unitStream := [], freeCount := 0 }

/-- Identity filters. -/
def b0 : State := bench t0 t0

/-- A faulted block. -/
def dead : State := { b0 with faulted := true, faultCode := 0x01 }

/-- The collaborator absent. -/
def alone : State := { b0 with netPresent := false, cfg := { b0.cfg with netPresent := false } }

/-- A finite accumulator of four bytes holding one (D-ACC-8, D-ACC-9). -/
def shallow : State := { b0 with acc := [0xAA], cfg := { b0.cfg with accDepth := some 4 } }

/-- What a projection of the next state is, if there is one. -/
def after {α : Type} (o : Host.Outcome State Fault Refusal) (f : State → α) : Option α := (nextOf o).map f

/-- What a projection of the state is after operations one after another. -/
def afterAll {α : Type} (is : List Instr) (s : State) (f : State → α) : Option α := (execAll is s).map f

/-- What a projection of the state is after a record is taken from the host port. -/
def afterRecord {α : Type} (s : State) (bs : List Byte) (f : State → α) : Option α :=
  after (step { s with stream := bs }) f

/-- The history (x1, x2, y1, y2). -/
def history (f : Filter) : List F32 := [f.x1, f.x2, f.y1, f.y2]

/-! ## WellFormed: one ill-formed term for each check -/

theorem test_wf_m2n_absent : Instr.wellFormed tags (.m2n none) = false := by decide +kernel
theorem test_wf_m2n_long : Instr.wellFormed tags (.m2n (some (List.replicate 65536 0))) = false := by
  rw [Instr.wellFormed, List.length_replicate]; decide +kernel
theorem test_wf_header_long : Instr.wellFormed tags (.m2nHeader (List.replicate 65535 0)) = false := by
  rw [Instr.wellFormed, List.length_replicate]; decide +kernel
theorem test_wf_data_long : Instr.wellFormed tags (.m2nData (List.replicate 65535 0)) = false := by
  rw [Instr.wellFormed, List.length_replicate]; decide +kernel
theorem test_wf_eot_long : Instr.wellFormed tags (.m2nEot (List.replicate 65535 0)) = false := by
  rw [Instr.wellFormed, List.length_replicate]; decide +kernel
theorem test_wf_other_long : Instr.wellFormed tags (.m2nOther 0x7F (List.replicate 65535 0)) = false := by
  rw [Instr.wellFormed, List.length_replicate]; decide +kernel
theorem test_wf_other_recognised : Instr.wellFormed tags (.m2nOther 0x03 []) = false := by decide +kernel
theorem test_wf_append_long : Instr.wellFormed tags (.accAppend (List.replicate 65536 0)) = false := by
  rw [Instr.wellFormed, List.length_replicate]; decide +kernel
theorem test_wf_drain_wide : Instr.wellFormed tags (.accDrain (2 ^ 32)) = false := by decide +kernel
theorem test_wf_pack_first_wide : Instr.wellFormed tags (.pack12 (2 ^ 135) 0) = false := by decide +kernel
theorem test_wf_pack_second_wide : Instr.wellFormed tags (.pack12 0 (-2 ^ 135 - 1)) = false := by decide +kernel
theorem test_wf_tags_equal : Tags.legal { tags with eot := 0x01 } = false := by decide +kernel
theorem test_wf_tag_unrecognised : Tags.legal { tags with data := 0x7F } = false := by decide +kernel

/-! ## Decoding: records written out from 30_encoding.md R56 and R57 -/

/-- R57, M2N: 00, length 00 04, tag 7F and three bytes (program P4, command 2). -/
theorem test_decode_m2n : decodeHost [0x00, 0x00, 0x04, 0x7F, 0x01, 0x02, 0x03, 0x99] =
    .ok (.m2n (some [0x7F, 0x01, 0x02, 0x03]), [0x99]) := by decide +kernel
/-- R57, M2N with `length = 0` (D-FAULT-1). -/
theorem test_decode_m2n_empty : decodeHost [0x00, 0x00, 0x00] = .ok (.m2n (some []), []) := by decide +kernel
/-- R57, N2M: 01 00 FC is capacity 252 (program P4, command 5). -/
theorem test_decode_n2m : decodeHost [0x01, 0x00, 0xFC] = .ok (.n2m 252, []) := by decide +kernel
/-- R57, TICK: 02 00 00 00 14 is 20 ms (program P4, command 3). -/
theorem test_decode_tick : decodeHost [0x02, 0x00, 0x00, 0x00, 0x14] = .ok (.tick 20, []) := by decide +kernel
/-- R57, ENABLE: 03 00 (program P4, command 4). -/
theorem test_decode_enable : decodeHost [0x03, 0x00] = .ok (.enable 0, []) := by decide +kernel
/-- R59: the first illegal code, a unit index and the last code. -/
theorem test_decode_illegal_codes : decodeHost [0x04] = .error (.illegalCode 0x04) ∧
    decodeHost [0x10, 0x00, 0x00] = .error (.illegalCode 0x10) ∧ decodeHost [0xFF] = .error (.illegalCode 0xFF) := by
  decide +kernel
/-- A record short of its operand bytes. -/
theorem test_decode_incomplete : decodeHost [0x00, 0x00, 0x02, 0x01] = .error (.incomplete 0x00) ∧
    decodeHost [0x01, 0x00] = .error (.incomplete 0x01) := by decide +kernel
/-- R54 with the default tags: the four arms. -/
theorem test_decode_arms : decodeChunk tags [0x00, 0xAA, 0xBB] = .ok (.m2nHeader [0xAA, 0xBB], []) ∧
    decodeChunk tags [0x01, 0x80, 0x08] = .ok (.m2nData [0x80, 0x08], []) ∧
    decodeChunk tags [0x03] = .ok (.m2nEot [], []) ∧ decodeChunk tags [0x02] = .ok (.m2nOther 0x02 [], []) := by
  decide +kernel
/-- R56, codes 0x10 to 0x12, operands as log 6 spells them. -/
theorem test_decode_accumulator : decodeUnit [0x10, 0x00, 0x02, 0xF0, 0x01] = .ok (.accAppend [0xF0, 0x01], []) ∧
    decodeUnit [0x11] = .ok (.accSize, []) ∧ decodeUnit [0x12, 0x00, 0x00, 0x01, 0x02] = .ok (.accDrain 258, []) := by
  decide +kernel
/-- R56, codes 0x20 and 0x21. -/
theorem test_decode_triplets : decodeUnit [0x20, 0x12, 0x34, 0x56] = .ok (.unpack12 0x12 0x34 0x56, []) ∧
    decodeUnit (0x21 :: (List.replicate 17 0xFF ++ List.replicate 15 0x00 ++ [0x10, 0x01])) = .ok (.pack12 (-1) 4097, []) := by
  decide +kernel
/-- R56, codes 0x22 to 0x25. -/
theorem test_decode_conversions : decodeUnit [0x22, 0x0F, 0xFE] = .ok (.dec12f 0xFFE, []) ∧
    decodeUnit [0x23, 0x3F, 0x80, 0x01, 0x02] = .ok (.enc16 0x3F800102, []) ∧
    decodeUnit [0x24, 0xAB, 0xCD] = .ok (.dec16f 0xABCD, []) ∧
    decodeUnit [0x25, 0xBF, 0x80, 0x01, 0x02] = .ok (.enc12 0xBF800102, []) := by decide +kernel
/-- R56, codes 0x26, 0x27 and 0x30. -/
theorem test_decode_pairs_and_filter : decodeUnit [0x26, 0x40, 0x01] = .ok (.des16 0x40 0x01, []) ∧
    decodeUnit [0x27, 0x12, 0x30] = .ok (.ser16 0x1230, []) ∧
    decodeUnit [0x30, 0x00, 0x3F, 0x00, 0x00, 0x01] = .ok (.biquadStep .de 0x3F000001, []) ∧
    decodeUnit [0x30, 0x01, 0x3F, 0x00, 0x00, 0x01] = .ok (.biquadStep .pre 0x3F000001, []) := by decide +kernel
/-- Operands with no such value: a 13-bit sample and a third filter instance. -/
theorem test_decode_operand_range : decodeUnit [0x22, 0x10, 0x00] = .error (.operandRange 0x22) ∧
    decodeUnit [0x30, 0x02, 0, 0, 0, 0] = .error (.operandRange 0x30) ∧
    decodeUnit [0x00, 0x00] = .error (.illegalCode 0x00) := by decide +kernel

/-- Table words: M2N alone is an M2N with no chunk, 0x11 is ACC.SIZE. -/
theorem test_table_words : decodeTableWord 8 0x00 = some (.m2n (some [])) ∧ decodeTableWord 8 0x11 = some .accSize ∧
    decodeTableWord 8 0x04 = none := by decide +kernel
/-- The very next step after `withFetchWord` runs that operation: ACC.SIZE of the empty accumulator is 0 (R72). -/
theorem test_withFetchWord_unit : after (step (State.reset.withFetchWord 8 0x11)) State.result = some (.size 0) := by
  decide +kernel
/-- TICK with its operand bytes zero (R129). -/
theorem test_withFetchWord_host : after (step (State.reset.withFetchWord 8 0x02)) State.result = some .done := by
  decide +kernel

/-! ## The accumulator (95_test_vectors.md 2.1) -/

/-- D-ACC-3. -/
theorem test_append_then_size : afterAll [.accAppend [0xF0, 0x00], .accSize] { b0 with acc := [0xFF] }
    (fun t => (t.acc, t.result)) = some ([0xFF, 0xF0, 0x00], .size 3) := by decide +kernel
/-- D-ACC-8. -/
theorem test_append_overflow : after (exec (.accAppend [1, 2, 3, 4]) shallow) (fun t => (t.faulted, t.faultCode, t.result)) =
    some (true, 0x05, .fault (.accOverflow 5)) := by decide +kernel
/-- D-ACC-5. -/
theorem test_drain : after (exec (.accDrain 6) { b0 with acc := [0x12, 0x34, 0x56, 0x80, 0x08, 0x00, 0xFF] })
    (fun t => (t.acc, t.result)) = some ([0xFF], .bytes [0x12, 0x34, 0x56, 0x80, 0x08, 0x00]) := by decide +kernel
/-- D-ACC-6. -/
theorem test_drain_underflow : after (exec (.accDrain 3) { b0 with acc := [0xAA, 0xBB] })
    (fun t => (t.faulted, t.faultCode, t.result)) = some (true, 0x04, .fault (.accUnderflow 3)) := by decide +kernel

/-! ## The codec (95_test_vectors.md 2.2) -/

/-- D-CODEC-1 and D-CODEC-7. -/
theorem test_unpack12 : after (exec (.unpack12 0x12 0x34 0x56) b0) State.result = some (.samples 291 1110) ∧
    after (exec (.unpack12 0xAB 0xCD 0xEF) b0) State.result = some (.samples 0xABC 0xDEF) := by decide +kernel
/-- D-CODEC-15, D-CODEC-17 and D-CODEC-18: integers outside 12 bits are masked. -/
theorem test_pack12 : after (exec (.pack12 291 1110) b0) State.result = some (.bytes [0x12, 0x34, 0x56]) ∧
    after (exec (.pack12 (-1) (-2048)) b0) State.result = some (.bytes [0xFF, 0xF8, 0x00]) ∧
    after (exec (.pack12 5120 (-1023)) b0) State.result = some (.bytes [0x40, 0x0C, 0x01]) := by decide +kernel
/-- D-CODEC-20, D-CODEC-22, D-CODEC-25 and D-CODEC-28. -/
theorem test_dec12f : [0, 291, 2048, 4095].map (decode12 .binary32) = [0xBF800000, 0xBF5BA000, 0x00000000, 0x3F7FE000] := by
  decide +kernel
/-- D-CODEC-32, D-CODEC-35, D-CODEC-37 and D-CODEC-40. -/
theorem test_dec16f : [4660, 32767, 43981, 65535].map (decode16 .binary32) = [0xBF5B97B7, 0x00000000, 0x3EAF3960, 0x3F800100] := by
  decide +kernel
/-- D-CODEC-50, D-CODEC-55, D-CODEC-58, D-CODEC-62, D-CODEC-66 and D-CODEC-69. -/
theorem test_enc16 : [0xBF800000, 0x80000000, 0x3F400000, 0x3FC00000, 0xBFC00000, 0xC2C80000].map (encode16 .binary32) =
    [.ok 0, .ok 32767, .ok 57342, .ok 16382, .ok 49153, .ok 32868] := by decide +kernel
/-- D-CODEC-51, D-CODEC-61, D-CODEC-65, D-CODEC-66 and D-CODEC-69. -/
theorem test_enc12 : [0xBF7FE000, 0x3F800100, 0xBF800080, 0xBFC00000, 0xC2C80000].map (encode12 .binary32) =
    [.ok 1, .ok 4096, .ok 0, .ok (-1023), .ok (-202751)] := by decide +kernel
/-- D-CODEC-72, D-CODEC-74 and D-CODEC-75: values that are no numbers. -/
theorem test_enc_numeric_fault :
    after (exec (.enc16 0x7FC00000) b0) (fun t => (t.faultCode, t.result)) = some (0x06, .fault (.numericFault 0x7FC00000)) ∧
    after (exec (.enc12 0xFF800000) b0) State.result = some (.fault (.numericFault 0xFF800000)) ∧
    after (exec (.enc16 0x7F61B1E6) b0) State.result = some (.fault (.numericFault 0x7F800000)) := by decide +kernel
/-- D-CODEC-86 and D-CODEC-87. -/
theorem test_des16 : after (exec (.des16 0x00 0xFF) b0) State.result = some (.sample16 255) ∧
    after (exec (.des16 0xFF 0x00) b0) State.result = some (.sample16 65280) := by decide +kernel
/-- D-CODEC-80 and D-CODEC-83. -/
theorem test_ser16 : after (exec (.ser16 4656) b0) State.result = some (.bytes [0x12, 0x30]) ∧
    after (exec (.ser16 255) b0) State.result = some (.bytes [0x00, 0xFF]) := by decide +kernel

/-! ## The filter (95_test_vectors.md 2.3) -/

/-- D-FILT-9: T5, sensitive to the order of evaluation. -/
theorem test_filter_order : ((filterRun .binary32 (loadFilter .binary32 t5) [0x3E99999A, 0xBF333333, 0x3F666666]).1,
    history (filterRun .binary32 (loadFilter .binary32 t5) [0x3E99999A, 0xBF333333, 0x3F666666]).2) =
    ([0x3CF5C290, 0x3B03127C, 0x3D20F90A], [0x3F666666, 0xBF333333, 0x3D20F90A, 0x3B03127C]) := by decide +kernel
/-- D-FILT-4: T2, the gain is applied to the returned value only. -/
theorem test_filter_gain : ((filterRun .binary32 (loadFilter .binary32 t2) [0x3F000000, 0xBE800000, 0x3F400000]).1,
    history (filterRun .binary32 (loadFilter .binary32 t2) [0x3F000000, 0xBE800000, 0x3F400000]).2) =
    ([0x40700000, 0xC0340000, 0x40B68000], [0x3F400000, 0xBE800000, 0x3F120000, 0xBE900000]) := by decide +kernel
/-- D-FILT-10: the step overflows and does not fault; PRE is unchanged (D-FILT-11). -/
theorem test_biquad_step : after (exec (.biquadStep .de 0xBF800000) (bench t6 t0))
    (fun t => (t.result, t.faulted, history t.de, history t.pre)) =
    some (.float 0xFF800000, false, [0xBF800000, 0, 0xFF800000, 0], [0, 0, 0, 0]) := by decide +kernel
/-- 0 dB is exactly 1 and 20 dB exactly 10 (R102, T1 and T2). -/
theorem test_gain_exact : dbToLin 0 = 0x3F800000 ∧ dbToLin 20 = 0x41200000 := by decide +kernel

/-! ## M2N and its arms (95_test_vectors.md 2.4) -/

/-- D-M2N-4. -/
theorem test_m2n_data : after (exec (.m2n (some [0x01, 0x12, 0x34, 0x56, 0x80, 0x08, 0x00, 0xFF])) b0)
    (fun t => (t.acc, t.result, writtenBytes t.trace, history t.de)) =
    some ([0xFF], .flag true, [0x12, 0x30, 0x45, 0x5F, 0x7F, 0xFF, 0x7F, 0xFF], [0, 0, 0, 0]) := by decide +kernel
/-- Program P3: T1 with a real recursion. -/
theorem test_m2n_recursion : after (exec (.m2n (some [0x01, 0xC0, 0x06, 0x00, 0xE0, 0x00, 0x00])) (bench t1 t0))
    (fun t => (writtenBytes t.trace, history t.de)) =
    some ([0xAF, 0xFF, 0x5B, 0xFF, 0xC8, 0xFE, 0x10, 0xC0], [0xBF800000, 0x3F400000, 0xBF5E8000, 0x3F120000]) := by
  decide +kernel
/-- D-M2N-16: the second chunk's group is shifted by the residue of the first. -/
theorem test_m2nData_residue : afterAll [.m2nData [0x80, 0x08, 0x00, 0x12], .m2nData [0x80, 0x08, 0x00]] b0
    (fun t => (t.acc, writtenBytes t.trace)) =
    some ([0x00], [0x7F, 0xFF, 0x7F, 0xFF, 0x12, 0x80, 0x00, 0x80]) := by decide +kernel
/-- D-M2N-8: a failed write loses the samples. -/
theorem test_m2nData_write_fails : after (exec (.m2nData [0x00]) { b0 with acc := [0x80, 0x08], dataDraws := [false] })
    (fun t => (t.acc, t.result, t.faulted)) = some ([], .flag false, false) := by decide +kernel
/-- D-M2N-2. -/
theorem test_m2nHeader : after (exec (.m2nHeader [0xAA, 0xBB]) b0) (fun t => (t.acc, t.result, t.trace)) =
    some ([], .flag true, []) := by decide +kernel
/-- D-M2N-11 and D-M2N-15. -/
theorem test_m2nEot : after (exec (.m2nEot []) { b0 with eotDraws := [false] }) (fun t => (t.result, t.trace)) =
      some (.flag false, [.writeEot false]) ∧
    after (exec (.m2nEot []) alone) (fun t => (t.faulted, t.faultCode, t.trace)) = some (true, 0x07, []) := by
  decide +kernel
/-- D-M2N-3 and D-M2N-14. -/
theorem test_m2nOther : after (exec (.m2nOther 0x7F [1, 2, 3]) b0) State.result = some (.flag false) ∧
    after (exec (.m2nOther 0x7F []) alone) State.result = some (.flag false) := by decide +kernel
/-- D-FAULT-6: the network sees nothing of a pipeline that meets an infinity. -/
theorem test_m2n_numeric_fault : after (exec (.m2n (some [0x01, 0x00, 0x00, 0x00])) (bench t6 t0))
    (fun t => (t.faultCode, t.result, writtenBytes t.trace)) = some (0x06, .fault (.numericFault 0xFF800000), []) := by
  decide +kernel

/-! ## N2M (95_test_vectors.md 2.5) -/

/-- D-N2M-2: the positive full scale sample wraps. -/
theorem test_n2m : after (exec (.n2m 300) { b0 with readDraws := [[0x00, 0x00, 0x7F, 0xFF, 0xFF, 0xFE, 0x40, 0x00]] })
    (fun t => (t.result, t.buf, history t.pre)) =
    some (.count 6 [0x00, 0x08, 0x00, 0x00, 0x04, 0x00], some [0x00, 0x08, 0x00, 0x00, 0x04, 0x00, 0xEE, 0xEE],
      [0xBEFFFE00, 0x3F800000, 0xBEFFFE00, 0x3F800000]) := by decide +kernel
/-- Program P5: a budget of one group, an odd sample count, every sample filtered. -/
theorem test_n2m_budget : after (exec (.n2m 4)
      { bench t0 t3 with readDraws := [[0xBF, 0xFF, 0xBF, 0xFF, 0x7F, 0xFF, 0x40, 0x00, 0xFF, 0xFE]] })
    (fun t => (t.result, (t.buf.getD []).take 4, history t.pre)) =
    some (.count 3 [0xC0, 0x08, 0x40], [0xC0, 0x08, 0x40, 0xEE], [0x3F800000, 0xBEFFFE00, 0x3FBBFF88, 0xBEFFFE00]) := by decide +kernel

/-! ## The hooks, faults and reset (95_test_vectors.md 2.6, 2.7) -/

/-- D-HOOK-2 and D-HOOK-6. -/
theorem test_tick : after (exec (.tick 4294967295) b0) State.result = some .done ∧
    after (exec (.tick 20) dead) (fun t => (t.result, t.faultCode)) = some (.refused, 0x01) := by decide +kernel
/-- D-HOOK-3 and D-HOOK-6. -/
theorem test_enable : after (exec (.enable 0) b0) State.result = some .done ∧
    after (exec (.enable 1) dead) State.result = some .refused := by decide +kernel
/-- D-FAULT-1, D-FAULT-2 and D-FAULT-3. -/
theorem test_precondition_records :
    afterRecord b0 [0x00, 0x00, 0x00] (fun t => (t.faulted, t.faultCode)) = some (true, 0x01) ∧
    afterRecord b0 [0x01, 0x00, 0x00] (fun t => (t.faulted, t.faultCode)) = some (true, 0x02) ∧
    afterRecord alone [0x01, 0x00, 0x00] (fun t => (t.faulted, t.faultCode)) = some (true, 0x02) := by decide +kernel
/-- D-FAULT-4 and D-FAULT-10. -/
theorem test_illegal_record : afterRecord b0 [0x04] (fun t => (t.faultCode, t.result)) =
      some (0x08, .fault (.illegalCommand 0x04)) ∧
    afterRecord alone [0x00, 0x00, 0x02, 0x7F, 0x00] (fun t => (t.faulted, t.result)) = some (false, .flag false) := by
  decide +kernel
/-- D-FAULT-11. -/
theorem test_overflow_record : afterRecord { shallow with acc := [0xAA, 0xBB] } [0x00, 0x00, 0x04, 0x01, 0x01, 0x02, 0x03]
    (fun t => (t.faultCode, t.result)) = some (0x05, .fault (.accOverflow 5)) := by decide +kernel
/-- D-FAULT-7 and D-FAULT-8. -/
theorem test_config_invalid :
    after (step { dead with resetReq := true, cfg := { config t0 t0 with de := { t0 with a0 := 0x80000000 } } })
      (fun t => (t.faulted, t.faultCode)) = some (true, 0x09) ∧
    after (step { dead with resetReq := true, cfg := { config t0 t0 with tags := { tags with eot := 0x01 } } })
      (fun t => (t.faulted, t.faultCode, t.result)) = some (true, 0x09, .fault (.configInvalid (.tagPair .data .eot))) := by
  decide +kernel
/-- R145, R167: the tag that is 0x7F is named. -/
theorem test_config_invalid_tag :
    after (step { b0 with resetReq := true, cfg := { config t0 t0 with tags := { tags with data := 0x7F } } })
      State.result = some (.fault (.configInvalid (.tag .data))) := by decide +kernel
/-- R148, R166: a reset clears the fault, the accumulator and the histories. -/
theorem test_reset : after (step { dead with resetReq := true, acc := [1, 2], de := { dead.de with y1 := 5 } })
    (fun t => (t.faulted, t.faultCode, t.acc, history t.de)) = some (false, 0x00, [], [0, 0, 0, 0]) := by decide +kernel

/-! ## Witnesses: a concrete state and operands that meet the hypotheses of each obligation, clause by clause -/

/-- A DATA chunk of these payload bytes. -/
def dataChunk (payload : List Byte) : Instr := .m2n (some (b0.cfg.tags.data :: payload))

/-- A state in which no fault is recorded, with its tags legal and the collaborator present. -/
theorem bench_running : b0.faulted = false ∧ b0.netPresent = true ∧ b0.cfg.tags.legal = true := by decide +kernel

theorem witness_StepRunsTheDecodedOperation :
    ({ b0 with stream := [0x02, 0, 0, 0, 20, 7] } : State).resetReq = false ∧
    decodeHost [0x02, 0, 0, 0, 20, 7] = .ok (.tick 20, [7]) ∧
    ([0x11, 7] : List Byte) ≠ [] ∧ decodeUnit [0x11, 7] = .ok (.accSize, [7]) := by decide +kernel

theorem witness_BlockWaitsForACommand : b0.resetReq = false ∧ b0.unitStream = [] ∧ b0.stream = [] ∧
    decodeHost [0x02, 0] = .error (.incomplete 0x02) := by decide +kernel

/-- The lowest illegal code and the highest, in a running and in a faulted block. -/
theorem witness_IllegalRecordRaisesIllegalCommand :
    (∀ c ∈ ([0x04, 0xFF] : List Byte), c ≠ 0x00 ∧ c ≠ 0x01 ∧ c ≠ 0x02 ∧ c ≠ 0x03) ∧
    b0.faulted = false ∧ b0.resetReq = false ∧ b0.unitStream = [] ∧
    dead.faulted = true ∧ dead.resetReq = false ∧ dead.unitStream = [] := by decide +kernel

theorem witness_DecodeInvertsEncode : tags.legal = true ∧
    Instr.wellFormed tags (.pack12 (-(2 ^ 135)) (2 ^ 135 - 1)) = true ∧ Instr.level (.pack12 0 0) ≠ .arm ∧
    Instr.wellFormed tags (.m2n (some [])) = true ∧ Instr.wellFormed tags (.accDrain (2 ^ 32 - 1)) = true ∧
    Instr.wellFormed tags (.m2nOther 0x7F []) = true ∧ Instr.level (.m2nOther 0x7F []) = .arm := by decide +kernel

theorem witness_EncodeInvertsDecode : decode tags .host [0x03, 9, 1] = .ok (.enable 9, [1]) ∧
    decode tags .arm [0x03, 1] = .ok (.m2nEot [1], []) ∧ decode tags .unit [0x22, 0x0F, 0xFF] = .ok (.dec12f 0xFFF, []) := by
  decide +kernel

theorem witness_TagSelectsExactlyOneArm : Config.defaultTags.legal = true := by decide +kernel

theorem witness_FaultedBlockRefusesEveryOperation : dead.faulted = true ∧ Instr.level (.tick 0) = .host ∧
    Instr.level .accSize ≠ .host := by decide +kernel

theorem witness_PreconditionViolationsFailFast : b0.faulted = false ∧ b0.buf ≠ none ∧
    ({ b0 with buf := none } : State).buf = none := by decide +kernel

theorem witness_FaultIsStickyUntilReset : dead.faulted = true ∧ dead.resetReq = false ∧
    after (step { dead with stream := [0x03, 0x01] }) State.result = some .refused := by decide +kernel

/-- The default of R6 and D4. -/
theorem test_reset_fp : State.reset.cfg.fp = .binary32 := rfl

theorem config_legal : ConfigLegal (config t1 t3) := by
  refine ⟨?_, ?_, ?_, ?_, ?_, ?_⟩ <;> decide +kernel

theorem config_not_legal : ¬ ConfigLegal (config t1 { t3 with a0 := 0x80000000 }) := by
  intro h
  exact absurd h.2.1 (by decide +kernel)

theorem witness_ResetWritesTheListedState : ∃ s : State, s.resetReq = true ∧ ConfigLegal s.cfg :=
  ⟨{ bench t1 t3 with resetReq := true }, rfl, config_legal⟩

theorem witness_InvalidConfigurationFaultsAtReset :
    (∃ s : State, s.resetReq = true ∧ ¬ ConfigLegal s.cfg) ∧ (∃ s : State, s.resetReq = true ∧ ConfigLegal s.cfg) :=
  ⟨⟨{ bench t1 t3 with resetReq := true, cfg := config t1 { t3 with a0 := 0x80000000 } }, rfl, config_not_legal⟩,
    witness_ResetWritesTheListedState⟩

theorem bench_inv : BlockInv (bench t1 t3) := by
  refine ⟨?_, ⟨fun _ => rfl, ?_⟩, fun _ => ⟨⟨?_, ?_, rfl⟩, config_legal⟩⟩
  · intro depth h
    cases h
  · intro h
    cases h
  · exact ⟨rfl, rfl, rfl, rfl, rfl, rfl, rfl⟩
  · exact ⟨rfl, rfl, rfl, rfl, rfl, rfl, rfl⟩

theorem witness_EveryStepKeepsTheBlockInvariant : ∃ s t : State, BlockInv s ∧ step s = .next t :=
  ⟨bench t1 t3, bench t1 t3, bench_inv, rfl⟩

/-- An AccOverflow with a depth of four: the free ACC is within it. -/
theorem test_faulted_acc_within_depth :
    ∃ u, exec (dataChunk [1, 2, 3, 4]) shallow = .next u ∧ u.faultCode = 0x05 ∧ u.acc.length ≤ 4 :=
  ⟨_, rfl, rfl, freeAccWithin_length_le⟩

theorem witness_OnlyResetWritesTheConstants :
    after (step { b0 with stream := [0x00, 0, 4, 1, 0x80, 0x08, 0x00] }) (fun t => (t.resetReq, t.faulted)) =
      some (false, b0.faulted) ∧
    after (step { bench t1 t3 with resetReq := true }) State.cfg = some (config t1 t3) := by decide +kernel

theorem witness_DirectionsShareNoMutableState :
    after (exec (dataChunk [0x80, 0x08, 0x00]) b0) State.faulted = some b0.faulted ∧
    after (exec (.n2m 3) { b0 with readDraws := [[0x7F, 0xFF, 0x7F, 0xFF]] }) State.faulted = some b0.faulted := by
  decide +kernel

theorem witness_OppositeDirectionsCommute :
    ({ b0 with readDraws := [[0x7F, 0xFF, 0x7F, 0xFF]] } : State).readDraws ≠ [] ∧ alone.netPresent = false ∧
    afterAll [dataChunk [0x80, 0x08, 0x00], .n2m 3] { b0 with readDraws := [[0x7F, 0xFF, 0x7F, 0xFF]] } State.faulted =
      some false ∧
    afterAll [.n2m 3, dataChunk [0x80, 0x08, 0x00]] alone State.faulted = some false := by decide +kernel

theorem witness_AtMostOneTransactionPerCommand : Instr.level (dataChunk [0x80, 0x08, 0x00]) = .host ∧
    after (exec (dataChunk [0x80, 0x08, 0x00]) b0) (fun t => t.trace.length) = some 2 ∧
    after (exec (.n2m 3) { b0 with readDraws := [[0x7F]] }) (fun t => t.trace.length) = some 2 ∧
    alone.netPresent = false := by decide +kernel

theorem witness_HooksOnlyReturn : b0.faulted = false ∧ dead.faulted = true := by decide +kernel

theorem witness_HeaderReturnsTrue : alone.faulted = false := by decide +kernel

theorem witness_UnrecognisedTagReturnsFalse : b0.faulted = false ∧ (0x7F : Byte) ≠ b0.cfg.tags.header ∧
    (0x7F : Byte) ≠ b0.cfg.tags.eot ∧ (0x7F : Byte) ≠ b0.cfg.tags.data := by decide +kernel

theorem witness_EotReturnsTheAnswer : b0.faulted = false ∧ b0.netPresent = true ∧ b0.cfg.tags.legal = true ∧
    b0.eotDraws = true :: [] ∧ ({ b0 with eotDraws := [] } : State).eotDraws = [] := by decide +kernel

theorem witness_EotWithoutCollaboratorRaisesNetAbsent : alone.faulted = false ∧ alone.netPresent = false ∧
    alone.cfg.tags.legal = true := by decide +kernel

theorem witness_DataWithoutCollaboratorIsDropped : alone.faulted = false ∧ alone.netPresent = false ∧
    alone.cfg.tags.legal = true := by decide +kernel

/-- One byte more than the depth. -/
theorem witness_DataPastTheDepthRaisesAccOverflow : shallow.faulted = false ∧ shallow.netPresent = true ∧
    shallow.cfg.tags.legal = true ∧ shallow.cfg.accDepth = some 4 ∧
    4 < shallow.acc.length + ([1, 2, 3, 4] : List Byte).length := by decide +kernel

/-- Two bytes buffered. -/
theorem witness_DataBelowOneGroupOnlyBuffers : b0.faulted = false ∧ b0.netPresent = true ∧ b0.cfg.tags.legal = true ∧
    b0.cfg.accDepth = none ∧ min (b0.acc.length + ([0x80, 0x08] : List Byte).length) b0.cfg.drainCap < 3 := by
  decide +kernel

/-- Exactly one group, in an accumulator filled to its depth; an answer scheduled, and none. -/
theorem witness_DataSendsWholeGroupsOnce : shallow.faulted = false ∧ shallow.netPresent = true ∧
    shallow.cfg.tags.legal = true ∧ shallow.cfg.accDepth = some 4 ∧
    shallow.acc.length + ([0x80, 0x08, 0x00] : List Byte).length ≤ 4 ∧
    3 = drainedOf (shallow.acc.length + ([0x80, 0x08, 0x00] : List Byte).length) shallow.cfg.drainCap ∧
    (groupsToNet .binary32 shallow.de ((shallow.acc ++ [0x80, 0x08, 0x00]).take 3)).toOption.map Prod.fst =
      some [0xAA, 0x7F, 0x00, 0x80] ∧
    shallow.dataDraws = true :: [true, true] ∧ ({ shallow with dataDraws := [] } : State).dataDraws = [] := by
  decide +kernel

theorem witness_PipelineComposesTheUnits : ([0x12, 0x34, 0x56] : List Byte).length = 3 * 1 ∧
    (groupsToNet .binary32 b0.de [0x12, 0x34, 0x56]).toOption.map Prod.fst = some [0x12, 0x30, 0x45, 0x5F] := by decide +kernel

theorem witness_PipelineFaultsAtTheFirstNonNumber : ([0x00, 0x00, 0x00] : List Byte).length = 3 * 1 ∧
    groupsToNet .binary32 (bench t6 t0).de [0x00, 0x00, 0x00] = .error 0xFF800000 := by decide +kernel

theorem witness_DataWithNonNumberRaisesNumericFault : (bench t6 t0).faulted = false ∧ (bench t6 t0).netPresent = true ∧
    (bench t6 t0).cfg.tags.legal = true ∧ (bench t6 t0).cfg.accDepth = none ∧
    3 = drainedOf ((bench t6 t0).acc.length + ([0x00, 0x00, 0x00] : List Byte).length) (bench t6 t0).cfg.drainCap ∧
    groupsToNet .binary32 (bench t6 t0).de (((bench t6 t0).acc ++ [0x00, 0x00, 0x00]).take 3) = .error 0xFF800000 := by
  decide +kernel

/-- Nothing buffered, and one byte past the cap (D-M2N-5). -/
theorem witness_DataSizes :
    after (exec (dataChunk []) b0) (fun t => (t.faulted, t.acc.length)) = some (false, 0) ∧
    after (exec (dataChunk [0x00]) { b0 with acc := List.replicate 255 0x00 }) (fun t => (t.faulted, t.acc.length)) =
      some (false, 1) := by decide +kernel

/-- An accumulator without a depth, and one that the joined payload fills to its depth. -/
theorem witness_ChunkBoundariesDoNotMatter :
    (bench t1 t0).acc.length + ([0xC0] : List Byte).length + ([0x06, 0x00, 0xE0] : List Byte).length ≤
      (bench t1 t0).cfg.drainCap ∧
    after (exec (dataChunk ([0xC0] ++ [0x06, 0x00, 0xE0])) (bench t1 t0)) (fun t => (t.faulted, t.acc)) =
      some (false, [0xE0]) ∧
    shallow.acc.length + ([0x80] : List Byte).length + ([0x08, 0x00] : List Byte).length ≤ shallow.cfg.drainCap ∧
    after (exec (dataChunk ([0x80] ++ [0x08, 0x00])) shallow) (fun t => (t.faulted, t.acc)) = some (false, [0x00]) := by
  decide +kernel

/-- Reads: one scheduled, and a free one. -/
theorem scheduled_read (rd : List Byte) (h : rd.length ≤ 168) : ReadYields { b0 with readDraws := [rd] } rd b0 :=
  .inl ⟨[], rfl, h, rfl⟩

theorem free_read : ReadYields b0 ((Config.freeRead 0).take 168) { b0 with freeCount := 1 } := .inr ⟨rfl, rfl, rfl⟩

theorem witness_N2mWithoutDataReturnsZero : alone.faulted = false ∧ alone.buf ≠ none ∧ (1 : BitVec 16) ≠ 0 ∧
    alone.netPresent = false ∧ b0.netPresent = true ∧ ReadYields { b0 with readDraws := [[]] } [] b0 :=
  ⟨by decide +kernel, by decide +kernel, by decide +kernel, by decide +kernel, by decide +kernel,
    scheduled_read [] (by decide +kernel)⟩

/-- A scheduled read with an odd byte and a budget of exactly one group. -/
theorem witness_N2mPacksTheLeadingPairs : b0.faulted = false ∧ (3 : BitVec 16) ≠ 0 ∧ b0.netPresent = true ∧
    ReadYields { b0 with readDraws := [[0x7F, 0xFF, 0x00, 0x00, 0xFF]] } [0x7F, 0xFF, 0x00, 0x00, 0xFF] b0 ∧
    1 = min (([0x7F, 0xFF, 0x00, 0x00, 0xFF] : List Byte).length / 2 / 2) (min (3 : BitVec 16).toNat b0.cfg.outCapMax / 3) ∧
    packPairs .binary32 ((filterRun .binary32 b0.pre ((pairSamples [0x7F, 0xFF, 0x00, 0x00, 0xFF]).map
      (decode16 .binary32))).1.take (2 * 1)) = ([0x80, 0x00, 0x00], none) :=
  ⟨by decide +kernel, by decide +kernel, by decide +kernel, scheduled_read _ (by decide +kernel), by decide +kernel,
    by decide +kernel⟩

/-- A free read and a budget below one group. -/
theorem witness_N2mPacksTheLeadingPairs_free : (1 : BitVec 16) ≠ 0 ∧
    ReadYields b0 ((Config.freeRead 0).take 168) { b0 with freeCount := 1 } ∧
    0 = min (((Config.freeRead 0).take 168).length / 2 / 2) (min (1 : BitVec 16).toNat b0.cfg.outCapMax / 3) ∧
    ∀ fs : List F32, packPairs .binary32 (fs.take (2 * 0)) = ([], none) := by
  refine ⟨by decide +kernel, free_read, ?_, fun _ => rfl⟩
  have h : min (1 : BitVec 16).toNat b0.cfg.outCapMax / 3 = 0 := by decide +kernel
  rw [h, Nat.min_zero]

theorem witness_PackingComposesTheUnits :
    (([(0x00000000, 0xBF800000)] : List (F32 × F32)).map fun p => encode12 .binary32 p.1) = [Except.ok 2048] ∧
    (([(0x00000000, 0xBF800000)] : List (F32 × F32)).map fun p => encode12 .binary32 p.2) = [Except.ok 0] := by decide +kernel

/-- The second sample of the pair is the first that is no number. -/
theorem witness_N2mWithNonNumberRaisesNumericFault : (bench t0 t6).faulted = false ∧ (3 : BitVec 16) ≠ 0 ∧
    (bench t0 t6).netPresent = true ∧
    ReadYields { bench t0 t6 with readDraws := [[0x7F, 0xFF, 0x00, 0x00]] } [0x7F, 0xFF, 0x00, 0x00] (bench t0 t6) ∧
    1 = min (([0x7F, 0xFF, 0x00, 0x00] : List Byte).length / 2 / 2) (min (3 : BitVec 16).toNat (bench t0 t6).cfg.outCapMax / 3) ∧
    (filterRun .binary32 (bench t0 t6).pre ((pairSamples [0x7F, 0xFF, 0x00, 0x00]).map (decode16 .binary32))).1.take (2 * 1) =
      [0x00000000] ++ 0xFF800000 :: [] ∧
    encode12 .binary32 0x00000000 = .ok 2048 ∧ encode12 .binary32 0xFF800000 = .error 0xFF800000 :=
  ⟨by decide +kernel, by decide +kernel, by decide +kernel, .inl ⟨[], rfl, by decide +kernel, rfl⟩, by decide +kernel,
    by decide +kernel, by decide +kernel, by decide +kernel⟩

theorem witness_N2mStaysWithinItsResult :
    after (exec (.n2m 65535) { b0 with readDraws := [[0x7F, 0xFF, 0x7F, 0xFF]] }) (fun t => (t.result, t.cfg.netReadMax)) =
      some (.count 3 [0x80, 0x08, 0x00], 168) := by decide +kernel

theorem witness_N2mFiltersWhateverTheCapacity :
    (1 : BitVec 16) ≠ 0 ∧ (65535 : BitVec 16) ≠ 0 ∧
    after (exec (.n2m 1) { b0 with readDraws := [[0x7F, 0xFF, 0x00, 0x00]] }) State.faulted = some false ∧
    after (exec (.n2m 65535) { b0 with readDraws := [[0x7F, 0xFF, 0x00, 0x00]] }) State.faulted = some false := by
  decide +kernel

/-- A read of exactly the length asked for, and one of a byte more. -/
theorem witness_N2mStopsOnlyOnAnOverlongRead : (List.replicate 168 (0x00 : Byte)).length ≤ b0.cfg.netReadMax ∧
    b0.cfg.netReadMax < (List.replicate 169 (0x00 : Byte)).length ∧ b0.faulted = false ∧ b0.buf ≠ none ∧
    (1 : BitVec 16) ≠ 0 ∧ b0.netPresent = true := by decide +kernel

/-- Up to the depth, one past it, and without a depth. -/
theorem witness_AppendAddsAtTheTail : shallow.faulted = false ∧ shallow.cfg.accDepth = some 4 ∧
    shallow.acc.length + ([1, 2, 3] : List Byte).length ≤ 4 ∧ 4 < shallow.acc.length + ([1, 2, 3, 4] : List Byte).length ∧
    b0.cfg.accDepth = none := by decide +kernel

theorem witness_SizeReturnsTheByteCount : shallow.faulted = false := by decide +kernel

theorem witness_DrainRemovesFromTheHead : shallow.faulted = false ∧ 1 ≤ shallow.acc.length ∧ shallow.acc.length < 2 := by
  decide +kernel

theorem witness_DrainingInAnyChunksIsDrainingAtOnce :
    ([2, 0, 4, 1] : List Nat).sum ≤ ({ b0 with acc := [1, 2, 3, 4, 5, 6, 7] } : State).acc.length := by decide +kernel

theorem witness_UnpackSplitsTheBigEndianValue : b0.faulted = false := by decide +kernel

theorem witness_PackReducesAndJoins : b0.faulted = false ∧ ((16775168 : Nat) : Int) = (-1 % 4096) * 4096 + -2048 % 4096 := by
  decide +kernel

theorem witness_NetworkSamplesAreBigEndian : b0.faulted = false := by decide +kernel
theorem witness_Decode12IsExact : b0.faulted = false ∧ (2048 : Sample12).toNat = 2048 := by decide +kernel
theorem witness_Decode16FollowsItsFormula : b0.faulted = false := by decide +kernel

/-- A value that is a number and one that is none: 3.0e38, whose product overflows (D-CODEC-75). -/
theorem witness_Encode12FollowsItsFormula : b0.faulted = false ∧ b0.cfg.fp = .binary32 ∧
    (Fp.binary32.toInt (fadd (fmul (fadd 0xBFC00000 0x3F800000#32) (i2f 2048)) 0x3F000000#32)).toOption = some (-1023) ∧
    Fp.binary32.toInt (fadd (fmul (fadd 0x7F61B1E6 0x3F800000#32) (i2f 2048)) 0x3F000000#32) = .error 0x7F800000 := by
  decide +kernel

theorem witness_Encode16FollowsItsFormula : b0.faulted = false ∧ b0.cfg.fp = .binary32 ∧
    (Fp.binary32.toInt (fadd (fmul (fadd 0xBFC00000 0x3F800000#32) (i2f 32767)) 0x3F000000#32)).toOption = some (-16383) ∧
    Fp.binary32.toInt (fadd (fmul (fadd 0x7F61B1E6 0x3F800000#32) (i2f 32767)) 0x3F000000#32) = .error 0x7F800000 := by
  decide +kernel

/-- Sums that are zero and sums that are not; a divisor that is not zero. -/
theorem witness_ArithmeticIsCorrectlyRounded : fIsFinite 0x3F800000 = true ∧ fIsFinite 0xBF800000 = true ∧
    fUnits 0x3F800000 + fUnits 0xBF800000 = 0 ∧ fUnits 0x3F800000 - fUnits 0xBF800000 ≠ 0 ∧
    fUnits 0x3F800000 + fUnits 0x3F800000 ≠ 0 ∧ fUnits 0x3F800000 - fUnits 0x3F800000 = 0 ∧
    fIsZero 0xBF800000 = false := by decide +kernel

theorem witness_IntegerConversionsAreExact : (-(2 ^ 24) : Int).natAbs ≤ 2 ^ 24 ∧ fIsFinite 0x7F7FFFFF = true ∧
    fIsFinite 0x7F800000 = false := by decide +kernel

theorem witness_BiquadStepFollowsTheEquation : (bench t1 t3).faulted = false := by decide +kernel

theorem witness_SilenceGivesSilence : (loadFilter .binary32 t1).legal .binary32 = true ∧ (loadFilter .binary32 t1).silent .binary32 = true ∧
    (∀ x ∈ ([0x00000000, 0x80000000] : List F32), Fp.binary32.isZero x = true) ∧ Fp.binary32.isZero 0x80000000 = true := by
  refine ⟨by decide +kernel, by decide +kernel, ?_, by decide +kernel⟩
  intro x hx
  rcases List.mem_pair.mp hx with rfl | rfl <;> decide +kernel

theorem witness_NonFiniteHistoryIsPermanent : ((loadFilter .binary32 t6).withHistory 0 0 0xFF800000 0).historyFinite .binary32 = false := by
  decide +kernel

end Sys2Proof.Tests
end

section
/-! PROOFS. Magnitude bits and their values in units of 2^-149, and what the nearest magnitude to a fraction is (R7, D4). -/

namespace Sys2Proof.Machine

/-! ## The value of the magnitude bits -/

/-- An exponent step `s` and a significand `q` make the magnitude bits of `q * 2 ^ s`. A significand of `2 ^ 24` carries into
the exponent and is still right. -/
theorem magUnits_exponent_significand {s q : Nat} (hq : q ≤ 2 ^ 24) (hs : s = 0 ∨ 2 ^ 23 ≤ q) :
    magUnits (s * 2 ^ 23 + q) = q * 2 ^ s := by
  have hcases : (s = 0 ∧ q < 2 ^ 23) ∨ (2 ^ 23 ≤ q ∧ q < 2 ^ 24) ∨ q = 2 ^ 24 := by omega
  rw [magUnits]
  rcases hcases with ⟨rfl, hlow⟩ | ⟨hnormal, hlt⟩ | rfl
  · rw [if_pos (by omega)]
    omega
  · rw [if_neg (by omega), show 2 ^ 23 + (s * 2 ^ 23 + q) % 2 ^ 23 = q by omega,
      show (s * 2 ^ 23 + q) / 2 ^ 23 - 1 = s by omega]
  · rw [if_neg (by omega), show 2 ^ 23 + (s * 2 ^ 23 + 2 ^ 24) % 2 ^ 23 = 2 ^ 23 by omega,
      show (s * 2 ^ 23 + 2 ^ 24) / 2 ^ 23 - 1 = s + 1 by omega]
    ring

theorem exists_exponent_significand (m : Nat) :
    ∃ s q, m = s * 2 ^ 23 + q ∧ q < 2 ^ 24 ∧ (s = 0 ∨ 2 ^ 23 ≤ q) := by
  by_cases hm : m < 2 ^ 23
  · exact ⟨0, m, by omega, by omega, .inl rfl⟩
  · exact ⟨m / 2 ^ 23 - 1, 2 ^ 23 + m % 2 ^ 23, by omega, by omega, .inr (by omega)⟩

theorem magUnits_strictMono : StrictMono magUnits := by
  refine strictMono_nat_of_lt_succ fun m => ?_
  obtain ⟨s, q, rfl, hq, hs⟩ := exists_exponent_significand m
  rw [Nat.add_assoc, magUnits_exponent_significand (by omega) hs, magUnits_exponent_significand (by omega) (by omega)]
  exact Nat.mul_lt_mul_of_pos_right (Nat.lt_succ_self q) (by positivity)

@[simp] theorem magUnits_zero : magUnits 0 = 0 := by simp [magUnits]

theorem magUnits_infMag : magUnits infMag = 2 ^ 277 := by
  rw [show infMag = 253 * 2 ^ 23 + 2 ^ 24 from rfl, magUnits_exponent_significand le_rfl (by omega), ← pow_add]

theorem magUnits_pos {m : Nat} (h : m ≠ 0) : 0 < magUnits m := by
  simpa using magUnits_strictMono (Nat.pos_of_ne_zero h)

theorem magUnits_mul_strictMono {d : Nat} (hd : 0 < d) : StrictMono fun m => magUnits m * d :=
  magUnits_strictMono.mul_const hd

theorem magUnits_mul_ne {m c d : Nat} (hd : 0 < d) (hne : m ≠ c) : magUnits m * d ≠ magUnits c * d :=
  (magUnits_mul_strictMono hd).injective.ne hne

/-! ## The nearest magnitude -/

theorem nearestMag_of_eq {n d m : Nat} (hd : 0 < d) (hm : m ≤ infMag) (h : magUnits m * d = n) : NearestMag n d m := by
  refine ⟨hm, fun c _ hne => .inl ?_⟩
  have hcm := magUnits_mul_ne hd hne
  simp only [← Nat.cast_mul]
  omega

theorem NearestMag.eq_of_magUnits {n d m c : Nat} (h : NearestMag n d m) (hd : 0 < d) (hc : c ≤ infMag)
    (hn : magUnits c * d = n) : m = c := by
  by_contra hne
  have hnear := h.2 c hc (Ne.symm hne)
  have hcm := magUnits_mul_ne hd hne
  simp only [← Nat.cast_mul] at hnear
  omega

/-- Of the two magnitudes `p` and `p + 1` around a fraction the nearer one, or at a tie the even one, is the nearest of all;
past the largest finite value it is infinity. -/
theorem nearestMag_of_floor {n d p up : Nat} (hd : 0 < d) (hlo : magUnits p * d ≤ n) (hhi : n < magUnits (p + 1) * d)
    (hup : up = if magUnits p * d + magUnits (p + 1) * d < 2 * n ∨
      (magUnits p * d + magUnits (p + 1) * d = 2 * n ∧ p % 2 = 1) then 1 else 0) :
    NearestMag n d (min (p + up) infMag) := by
  have hlt : ∀ {a b}, a < b → magUnits a * d < magUnits b * d := fun h => magUnits_mul_strictMono hd h
  have hle : ∀ {a b}, a ≤ b → magUnits a * d ≤ magUnits b * d := fun h => (magUnits_mul_strictMono hd).monotone h
  have hup1 : up ≤ 1 := by split at hup <;> omega
  refine ⟨min_le_right _ _, fun c hc hne => ?_⟩
  simp only [← Nat.cast_mul]
  by_cases hover : infMag ≤ p
  · rw [min_eq_right (by omega)] at hne ⊢
    have hbelow := hlt (show c < infMag by omega)
    have hinf := hle hover
    omega
  · rw [min_eq_left (by omega)] at hne ⊢
    -- every magnitude lies outside the gap between the two neighbours, strictly unless it is one of them
    have hside : magUnits c * d ≤ magUnits p * d ∧ c ≤ p ∨ magUnits (p + 1) * d ≤ magUnits c * d ∧ p < c := by
      rcases Nat.lt_or_ge p c with h | h
      · exact .inr ⟨hle h, h⟩
      · exact .inl ⟨hle h, h⟩
    have hbelow : c < p → magUnits c * d < magUnits p * d := hlt
    have habove : p + 1 < c → magUnits (p + 1) * d < magUnits c * d := hlt
    split at hup <;> subst hup
    · omega
    · rw [Nat.add_zero] at hne ⊢
      omega

/-! ## Rounding -/

theorem topBit_spec {k q : Nat} (hpos : 0 < q) (hlt : q < 2 ^ 2 ^ k) : 2 ^ topBit k q ≤ q ∧ q < 2 ^ (topBit k q + 1) := by
  induction k generalizing q with
  | zero => exact ⟨hpos, hlt⟩
  | succ k ih =>
    rw [topBit]
    split
    next hzero =>
      exact ih hpos (Nat.lt_of_div_eq_zero (by positivity) hzero)
    next r hr =>
      have hquot : q / 2 ^ 2 ^ k < 2 ^ 2 ^ k := by
        rw [Nat.div_lt_iff_lt_mul (by positivity), ← pow_add]
        rwa [pow_succ, mul_two] at hlt
      have hpos' : 0 < q / 2 ^ 2 ^ k := by omega
      obtain ⟨hlo, hhi⟩ := ih hpos' hquot
      rw [Nat.le_div_iff_mul_le (by positivity), ← pow_add, hr] at hlo
      rw [Nat.div_lt_iff_lt_mul (by positivity), ← pow_add, hr] at hhi
      rw [Nat.add_comm (2 ^ k)]
      exact ⟨hlo, by rwa [Nat.add_right_comm] at hhi⟩

/-- Dropping the bits below the 24 highest leaves a significand, normal unless nothing was dropped. -/
theorem significand_of_topBit {q : Nat} (hq : q < 2 ^ 2 ^ 9) :
    q / 2 ^ (topBit 9 q - 23) < 2 ^ 24 ∧ (topBit 9 q - 23 = 0 ∨ 2 ^ 23 ≤ q / 2 ^ (topBit 9 q - 23)) := by
  rcases Nat.eq_zero_or_pos q with rfl | hpos
  · simp [topBit]
  obtain ⟨hlo, hhi⟩ := topBit_spec (k := 9) hpos hq
  rw [Nat.div_lt_iff_lt_mul (by positivity), Nat.le_div_iff_mul_le (by positivity), ← pow_add, ← pow_add]
  constructor
  · exact hhi.trans_le (Nat.pow_le_pow_right (by omega) (by omega))
  · rcases Nat.le_total (topBit 9 q) 23 with h | h
    · exact .inl (by omega)
    · exact .inr ((Nat.pow_le_pow_right (by omega) (by omega)).trans hlo)

/-- `roundMag` finds the top bit of a quotient of up to `2 ^ 9` bits. -/
theorem two_pow_le_roundMag_range {k : Nat} (hk : k ≤ 2 ^ 9) : 2 ^ k ≤ 2 ^ 2 ^ 9 :=
  pow_le_pow_right₀ one_le_two hk

theorem roundMag_nearest {n d : Nat} (hd : 0 < d) (hn : n / d < 2 ^ 2 ^ 9) : NearestMag n d (roundMag n d) := by
  obtain ⟨hq, hs⟩ := significand_of_topBit hn
  unfold roundMag
  dsimp only
  rw [Nat.div_div_eq_div_mul] at hq hs
  generalize hshift : topBit 9 (n / d) - 23 = shift at hq hs ⊢
  have hmod := Nat.mod_lt n (show 0 < d * 2 ^ shift by positivity)
  have hdiv := Nat.div_add_mod n (d * 2 ^ shift)
  generalize n / (d * 2 ^ shift) = q at hq hs hdiv ⊢
  generalize n % (d * 2 ^ shift) = r at hmod hdiv ⊢
  have hp : magUnits (shift * 2 ^ 23 + q) * d = d * 2 ^ shift * q := by
    rw [magUnits_exponent_significand hq.le hs]; ring
  have hp1 : magUnits (shift * 2 ^ 23 + q + 1) * d = d * 2 ^ shift * q + d * 2 ^ shift := by
    rw [Nat.add_assoc, magUnits_exponent_significand hq (by omega), Nat.succ_mul]; ring
  refine nearestMag_of_floor hd (by omega) (by omega) ?_
  rw [hp, hp1]
  congr 1
  apply propext
  omega

theorem roundMag_le (n d : Nat) : roundMag n d ≤ infMag := by
  unfold roundMag
  exact min_le_right _ _

theorem roundMag_exact {n d m : Nat} (hd : 0 < d) (hn : n / d < 2 ^ 2 ^ 9) (hm : m ≤ infMag) (h : magUnits m * d = n) :
    roundMag n d = m :=
  (roundMag_nearest hd hn).eq_of_magUnits hd hm h

end Sys2Proof.Machine
end

section
/-! PROOFS. The fields of a packed pattern, and what the operations answer on finite operands (R7, R87, D4, D6). -/

namespace Sys2Proof.Machine

/-! ## Fields -/

theorem toNat_fPack (neg : Bool) {m : Nat} (hm : m ≤ infMag) : (fPack neg m).toNat = (if neg then 2 ^ 31 else 0) + m := by
  rw [infMag] at hm
  rw [fPack, BitVec.toNat_ofNat]
  exact Nat.mod_eq_of_lt (by split <;> omega)

theorem fSign_fPack (neg : Bool) {m : Nat} (hm : m ≤ infMag) : fSign (fPack neg m) = neg := by
  rw [fSign, BitVec.msb_eq_decide, toNat_fPack neg hm]
  rw [infMag] at hm
  cases neg
  · exact decide_eq_false (by simp only [Bool.false_eq_true, if_false]; omega)
  · exact decide_eq_true (by simp)

theorem fMag_fPack (neg : Bool) {m : Nat} (hm : m ≤ infMag) : fMag (fPack neg m) = m := by
  rw [fMag, toNat_fPack neg hm]
  rw [infMag] at hm
  split <;> omega

theorem fMag_fNeg (x : Binary32) : fMag (fNeg x) = fMag x := by
  have hlow (y : Binary32) : fMag y = (y.setWidth 31).toNat := by rw [BitVec.toNat_setWidth, fMag]
  rw [hlow, hlow, fNeg, BitVec.setWidth_xor, show (0x80000000#32).setWidth 31 = 0#31 by decide, BitVec.xor_zero]

theorem fSign_fNeg (x : Binary32) : fSign (fNeg x) = !fSign x := by
  rw [fSign, fSign, fNeg, BitVec.msb_xor, show (0x80000000#32).msb = true by decide, Bool.xor_true]

theorem fUnits_fNeg (x : Binary32) : fUnits (fNeg x) = -fUnits x := by
  rw [fUnits, fUnits, fMag_fNeg, fSign_fNeg]
  cases fSign x <;> simp

theorem fUnits_natAbs (x : Binary32) : (fUnits x).natAbs = magUnits (fMag x) := by
  unfold fUnits
  split <;> simp

theorem fUnits_fPack (neg : Bool) {m : Nat} (hm : m ≤ infMag) :
    fUnits (fPack neg m) = if neg then -(magUnits m : Int) else (magUnits m : Int) := by
  rw [fUnits, fSign_fPack neg hm, fMag_fPack neg hm]

/-! ## Finite operands -/

theorem fMag_lt_of_finite {x : Binary32} (h : fIsFinite x = true) : fMag x < infMag := of_decide_eq_true h

theorem not_nan_of_finite {x : Binary32} (h : fIsFinite x = true) : fIsNaN x = false :=
  decide_eq_false (fMag_lt_of_finite h).le.not_gt

theorem not_inf_of_finite {x : Binary32} (h : fIsFinite x = true) : fIsInf x = false :=
  decide_eq_false (fMag_lt_of_finite h).ne

theorem fIsFinite_fNeg (x : Binary32) : fIsFinite (fNeg x) = fIsFinite x := by
  rw [fIsFinite, fIsFinite, fMag_fNeg]

theorem magUnits_lt_of_finite {x : Binary32} (h : fIsFinite x = true) : magUnits (fMag x) < 2 ^ 277 :=
  magUnits_infMag ▸ magUnits_strictMono (fMag_lt_of_finite h)

/-! ## Sums -/

/-- `x` is the rounding of the sum of `a` and `b`, an exact zero taking the sign `-` of two `-0` only. -/
def IsRoundedSum (a b x : Binary32) : Prop :=
  NearestMag (fUnits a + fUnits b).natAbs 1 (fMag x) ∧
    (fUnits a + fUnits b ≠ 0 → fSign x = decide (fUnits a + fUnits b < 0)) ∧
    (fUnits a + fUnits b = 0 → fSign x = (fSign a && fSign b))

theorem sumOf_isRounded {a b : Binary32} (ha : fIsFinite a = true) (hb : fIsFinite b = true) :
    IsRoundedSum a b (sumOf a b) := by
  have hma := magUnits_lt_of_finite ha
  have hmb := magUnits_lt_of_finite hb
  rw [← fUnits_natAbs] at hma hmb
  simp only [sumOf, not_inf_of_finite ha, not_inf_of_finite hb, Bool.false_eq_true, if_false]
  split
  next hzero =>
    rw [IsRoundedSum, hzero, fMag_fPack _ (Nat.zero_le _), fSign_fPack _ (Nat.zero_le _)]
    exact ⟨nearestMag_of_eq one_pos (Nat.zero_le _) (by simp), by simp, by simp⟩
  next hne =>
    rw [IsRoundedSum, fMag_fPack _ (roundMag_le _ _), fSign_fPack _ (roundMag_le _ _)]
    refine ⟨roundMag_nearest one_pos ?_, fun _ => rfl, fun h => absurd h hne⟩
    have hbound : (fUnits a + fUnits b).natAbs < 2 ^ 278 := by omega
    exact (Nat.div_one _).trans_lt (hbound.trans_le (two_pow_le_roundMag_range (by decide)))

theorem fadd_isRounded {a b : Binary32} (ha : fIsFinite a = true) (hb : fIsFinite b = true) :
    IsRoundedSum a b (fadd a b) := by
  have h : fadd a b = sumOf a b := by
    simp [fadd, not_nan_of_finite ha, not_nan_of_finite hb, not_inf_of_finite ha]
  exact h ▸ sumOf_isRounded ha hb

theorem fsub_isRounded {a b : Binary32} (ha : fIsFinite a = true) (hb : fIsFinite b = true) :
    IsRoundedSum a (fNeg b) (fsub a b) := by
  have h : fsub a b = sumOf a (fNeg b) := by
    simp [fsub, not_nan_of_finite ha, not_nan_of_finite hb, not_inf_of_finite ha]
  exact h ▸ sumOf_isRounded ha (fIsFinite_fNeg b ▸ hb)

/-! ## Products and quotients -/

theorem fmul_of_finite {a b : Binary32} (ha : fIsFinite a = true) (hb : fIsFinite b = true) :
    fmul a b = fPack (fSign a != fSign b) (roundMag (magUnits (fMag a) * magUnits (fMag b)) (2 ^ 149)) := by
  simp [fmul, not_nan_of_finite ha, not_nan_of_finite hb, not_inf_of_finite ha, not_inf_of_finite hb, unitBits]

theorem fdiv_of_finite {a b : Binary32} (ha : fIsFinite a = true) (hb : fIsFinite b = true) (h0 : fIsZero b = false) :
    fdiv a b = fPack (fSign a != fSign b) (roundMag (magUnits (fMag a) * 2 ^ 149) (magUnits (fMag b))) := by
  simp [fdiv, not_nan_of_finite ha, not_nan_of_finite hb, not_inf_of_finite ha, not_inf_of_finite hb, h0, unitBits]

theorem fmul_isRounded {a b : Binary32} (ha : fIsFinite a = true) (hb : fIsFinite b = true) :
    NearestMag (magUnits (fMag a) * magUnits (fMag b)) (2 ^ 149) (fMag (fmul a b)) ∧
      fSign (fmul a b) = (fSign a != fSign b) := by
  rw [fmul_of_finite ha hb, fMag_fPack _ (roundMag_le _ _), fSign_fPack _ (roundMag_le _ _)]
  refine ⟨roundMag_nearest (by positivity) ?_, rfl⟩
  calc magUnits (fMag a) * magUnits (fMag b) / 2 ^ 149
      < 2 ^ (277 + 128) := by
        rw [Nat.div_lt_iff_lt_mul (by positivity), ← pow_add, show 277 + 128 + 149 = 277 + 277 from rfl, pow_add]
        exact Nat.mul_lt_mul'' (magUnits_lt_of_finite ha) (magUnits_lt_of_finite hb)
    _ ≤ 2 ^ 2 ^ 9 := two_pow_le_roundMag_range (by decide)

theorem fdiv_isRounded {a b : Binary32} (ha : fIsFinite a = true) (hb : fIsFinite b = true) (h0 : fIsZero b = false) :
    NearestMag (magUnits (fMag a) * 2 ^ 149) (magUnits (fMag b)) (fMag (fdiv a b)) ∧
      fSign (fdiv a b) = (fSign a != fSign b) := by
  rw [fdiv_of_finite ha hb h0, fMag_fPack _ (roundMag_le _ _), fSign_fPack _ (roundMag_le _ _)]
  refine ⟨roundMag_nearest (magUnits_pos (of_decide_eq_false h0)) ?_, rfl⟩
  calc magUnits (fMag a) * 2 ^ 149 / magUnits (fMag b)
      ≤ magUnits (fMag a) * 2 ^ 149 := Nat.div_le_self _ _
    _ < 2 ^ (277 + 149) := by
        rw [pow_add]
        exact Nat.mul_lt_mul_of_pos_right (magUnits_lt_of_finite ha) (by positivity)
    _ ≤ 2 ^ 2 ^ 9 := two_pow_le_roundMag_range (by decide)

/-! ## Integers -/

/-- A positive integer up to `2 ^ 24`, shifted left, is a normal significand. -/
theorem exists_normal_significand {k : Nat} (hpos : 0 < k) (hk : k ≤ 2 ^ 24) :
    ∃ j ≤ 23, 2 ^ 23 ≤ k * 2 ^ j ∧ k * 2 ^ j ≤ 2 ^ 24 := by
  rcases hk.eq_or_lt with rfl | hlt
  · exact ⟨0, by omega, by omega, by omega⟩
  have htop : k.log2 ≤ 23 := Nat.lt_succ_iff.mp ((Nat.log2_lt hpos.ne').mpr hlt)
  have hlo := Nat.mul_le_mul_right (2 ^ (23 - k.log2)) (Nat.log2_self_le hpos.ne')
  have hhi := Nat.mul_le_mul_right (2 ^ (23 - k.log2)) (Nat.lt_log2_self (n := k)).le
  rw [← pow_add, show k.log2 + (23 - k.log2) = 23 by omega] at hlo
  rw [← pow_add, show k.log2 + 1 + (23 - k.log2) = 24 by omega] at hhi
  exact ⟨23 - k.log2, by omega, hlo, hhi⟩

theorem exists_mag_of_int {k : Nat} (hk : k ≤ 2 ^ 24) : ∃ m < infMag, magUnits m = k * 2 ^ 149 := by
  rcases Nat.eq_zero_or_pos k with rfl | hpos
  · exact ⟨0, by decide, by simp⟩
  obtain ⟨j, hj, hlo, hhi⟩ := exists_normal_significand hpos hk
  refine ⟨(149 - j) * 2 ^ 23 + k * 2 ^ j, by rw [infMag]; omega, ?_⟩
  rw [magUnits_exponent_significand hhi (.inr hlo), Nat.mul_assoc, ← pow_add, show j + (149 - j) = 149 by omega]

theorem i2f_exact {n : Int} (hn : n.natAbs ≤ 2 ^ 24) : fIsFinite (i2f n) = true ∧ fUnits (i2f n) = n * 2 ^ 149 := by
  obtain ⟨m, hm, hunits⟩ := exists_mag_of_int hn
  have hround : roundMag (n.natAbs * 2 ^ unitBits) 1 = m := by
    refine roundMag_exact one_pos ?_ hm.le (by rw [hunits, Nat.mul_one, unitBits])
    rw [Nat.div_one, unitBits, ← hunits]
    calc magUnits m
        < 2 ^ 277 := magUnits_infMag ▸ magUnits_strictMono hm
      _ ≤ 2 ^ 2 ^ 9 := two_pow_le_roundMag_range (by decide)
  rw [i2f, hround, fIsFinite, fMag_fPack _ hm.le, fUnits_fPack _ hm.le, hunits]
  refine ⟨decide_eq_true hm, ?_⟩
  split
  next hneg =>
    have hlt : n < 0 := of_decide_eq_true hneg
    omega
  next hnonneg =>
    have hge : ¬ n < 0 := by simpa using hnonneg
    omega

theorem f2iTrunc_of_finite {v : Binary32} (h : fIsFinite v = true) :
    f2iTrunc v = .ok (if fSign v then -((magUnits (fMag v) / 2 ^ 149 : Nat) : Int)
      else ((magUnits (fMag v) / 2 ^ 149 : Nat) : Int)) := by
  rw [f2iTrunc, if_pos h, fUnits, unitBits]
  split
  · rw [Int.neg_tdiv]; norm_cast
  · norm_cast

theorem f2iTrunc_of_not_finite {v : Binary32} (h : fIsFinite v = false) : f2iTrunc v = .error v := by
  rw [f2iTrunc, h]
  rfl

end Sys2Proof.Machine
end

section
/-! PROOFS. The family 00_scope.md. -/

open Sys2Proof Sys2Proof.Machine

/-- Settles O55: each operation on finite operands is one `roundMag`, and `roundMag` picks the nearer of the two magnitudes
around the exact quotient. -/
theorem arithmeticIsCorrectlyRounded : Obligations.ArithmeticIsCorrectlyRounded := by
  unfold Obligations.ArithmeticIsCorrectlyRounded
  intro a b ha hb
  have hsub := fsub_isRounded ha hb
  rw [IsRoundedSum, fUnits_fNeg, fSign_fNeg, ← sub_eq_add_neg] at hsub
  simp only [Fp.add_binary32, Fp.sub_binary32, Fp.mul_binary32, Fp.div_binary32]
  exact ⟨fadd_isRounded ha hb, hsub, fmul_isRounded ha hb, fdiv_isRounded ha hb⟩

/-- Settles O56: an integer up to `2 ^ 24` is a magnitude, which `roundMag` returns; the cast divides the units, toward zero. -/
theorem integerConversionsAreExact : Obligations.IntegerConversionsAreExact := by
  unfold Obligations.IntegerConversionsAreExact
  simp only [Fp.ofInt_binary32, Fp.toInt_binary32]
  exact ⟨fun n => i2f_exact, fun v => f2iTrunc_of_finite, fun v => f2iTrunc_of_not_finite⟩

end

section
/-! PROOFS. What running an operation and taking a step can do, said once with the frame of the body that ran. -/

namespace Sys2Proof.Machine

/-! ## Closing an operation -/

/-- The state that shows the result `r` and logs the events `es` (R45): `yield`, `report` and the answer to an illegal record
differ in the events only. -/
def State.conclude (s : State) (r : Result) (es : List Event) : State := { s with result := r, trace := s.trace ++ es }

@[simp] theorem State.conclude_faulted (s : State) (r es) : (s.conclude r es).faulted = s.faulted := rfl

theorem State.yield_eq_conclude (s : State) (r : Result) : s.yield r = s.conclude r [] := by
  simp [State.yield, State.conclude]

theorem State.report_eq_conclude (s : State) (i : Instr) (r : Result) : s.report i r = s.conclude r [.returned i r] := rfl

/-! ## One operation -/

/-- What taking one record can do in the state `s`: refuse it while FAULTED (R147), return a result, or enter a fault (R146).
`u` is the state in which the body ended, with the transactions in its trace; a refusal logs none. -/
inductive TakenOutcome (s : State) : State → Prop
  | refused {es : List Event} (hf : s.faulted = true) (hes : ∀ e ∈ es, e.isTransaction = false) :
      TakenOutcome s (s.conclude .refused es)
  | returned {u : State} {r : Result} {es : List Event} (hf : s.faulted = false) (frame : BodyFrame s u) :
      TakenOutcome s (u.conclude r es)
  | faults {u : State} {x : Raise} {es : List Event} (hf : s.faulted = false) (frame : BodyFrame s u) :
      TakenOutcome s ((u.takeFault x).conclude (.fault x) es)

theorem RanFrame.of_ok {s t : State} {m : Ran Result} {r : Result} (h : RanFrame s m) (hm : m = .ok r t) : BodyFrame s t := by
  rw [hm] at h; exact h

theorem RanFrame.of_raised {s t : State} {m : Ran Result} {x : Raise} (h : RanFrame s m) (hm : m = .raised x t) :
    BodyFrame s t := by
  rw [hm] at h; exact h

theorem runCommand_outcome {i : Instr} {body : State → Ran Result} {s t : State} (h : runCommand i body s = .next t)
    (hframe : RanFrame s (body s)) : TakenOutcome s t := by
  obtain ⟨hf, rfl⟩ | ⟨hf, r, u, hb, rfl⟩ | ⟨hf, x, u, hb, rfl⟩ := runCommand_next h
  all_goals rw [State.report_eq_conclude]
  · exact .refused hf (by simp [Event.isTransaction])
  · exact .returned hf (hframe.of_ok hb)
  · exact .faults hf (hframe.of_raised hb)

theorem runInner_outcome {body : State → Ran Result} {s t : State} (h : runInner body s = .next t)
    (hframe : RanFrame s (body s)) : TakenOutcome s t := by
  obtain ⟨hf, rfl⟩ | ⟨hf, r, u, hb, rfl⟩ | ⟨hf, x, u, hb, rfl⟩ := runInner_next h
  all_goals rw [State.yield_eq_conclude]
  · exact .refused hf (by simp)
  · exact .returned hf (hframe.of_ok hb)
  · exact .faults hf (hframe.of_raised hb)

theorem armEot_frame (s : State) : RanFrame s (armEot s) := by
  unfold armEot
  split
  · exact netWriteEot_frame s
  · exact BodyFrame.refl s

theorem numeric_frame {α : Type} (s : State) (r : Except F32 α) (f : α → Result) : RanFrame s (numeric s r f) := by
  cases r <;> exact BodyFrame.refl s

theorem accAppend_done_frame (bytes : List Byte) (s : State) :
    RanFrame s ((accAppend bytes s).andThen fun _ u => .ok .done u) := by
  cases ha : accAppend bytes s with
  | ok v t => exact accAppend_frame ha
  | raised x t => exact (accAppend_raised ha).2.1 ▸ BodyFrame.refl s
  | stuck r => trivial

theorem accDrain_bytes_frame (n : Nat) (s : State) : RanFrame s ((accDrain n s).andThen fun d u => .ok (.bytes d) u) := by
  rcases Nat.lt_or_ge s.acc.length n with h | h
  · rw [accDrain_of_lt h]
    exact BodyFrame.refl s
  · rw [accDrain_of_le h]
    exact withAcc_drop_frame s n

theorem biquadStep_frame (s : State) (id : FilterId) (x : F32) :
    BodyFrame s (s.withFilter id (filterStep s.cfg.fp (s.filter id) x).2) :=
  withFilter_frame s id _ rfl

theorem exec_outcome {i : Instr} {s t : State} (h : exec i s = .next t) : TakenOutcome s t := by
  have same : BodyFrame s s := BodyFrame.refl s
  unfold exec at h
  cases i with
  | m2n chunk => exact runCommand_outcome h (bodyM2n_frame chunk s)
  | n2m capacity => exact runCommand_outcome h (bodyN2m_frame capacity s)
  | tick ms => exact runCommand_outcome h same
  | enable flag => exact runCommand_outcome h same
  | m2nHeader payload => exact runInner_outcome h same
  | m2nData payload => exact runInner_outcome h (armData_frame payload s)
  | m2nEot payload => exact runInner_outcome h (armEot_frame s)
  | m2nOther tag payload => exact runInner_outcome h same
  | accAppend bytes => exact runInner_outcome h (accAppend_done_frame bytes s)
  | accSize => exact runInner_outcome h same
  | accDrain n => exact runInner_outcome h (accDrain_bytes_frame n s)
  | unpack12 t0 t1 t2 => exact runInner_outcome h same
  | pack12 a b => exact runInner_outcome h same
  | dec12f u => exact runInner_outcome h same
  | enc16 f => exact runInner_outcome h (numeric_frame s _ _)
  | dec16f u => exact runInner_outcome h same
  | enc12 f => exact runInner_outcome h (numeric_frame s _ _)
  | des16 p0 p1 => exact runInner_outcome h same
  | ser16 u => exact runInner_outcome h same
  | biquadStep id x => exact runInner_outcome h (biquadStep_frame s id x)

theorem illegalCommand_outcome (s : State) (c : Byte) : TakenOutcome s (s.illegalCommand c) := by
  unfold State.illegalCommand
  split
  next hf => exact .refused (es := [.illegalRecord c .refused]) hf (by simp [Event.isTransaction])
  next hf =>
    exact .faults (x := .illegalCommand c) (es := [.illegalRecord c (.fault (.illegalCommand c))]) (by simpa using hf)
      (BodyFrame.refl s)

/-! ## One step -/

/-- The state with what its two input ports present replaced. -/
def State.withPorts (s : State) (stream unitStream : List Byte) : State :=
  { s with stream := stream, unitStream := unitStream }

@[simp] theorem State.withPorts_faulted (s : State) (a b) : (s.withPorts a b).faulted = s.faulted := rfl

theorem step_of_reset {s : State} (h : s.resetReq = true) : step s = .next s.restart := by simp [step, fetch, h]

theorem fetch_of_host {s : State} (hr : s.resetReq = false) (hu : s.unitStream = []) : fetch s = fetchHost s := by
  simp [fetch, hr, hu]

theorem fetch_of_unit {s : State} (hr : s.resetReq = false) (hu : s.unitStream ≠ []) : fetch s = fetchUnit s := by
  obtain ⟨b, bs, hb⟩ := List.exists_cons_of_ne_nil hu
  simp [fetch, hr, hb]

/-- Everything a step that has a next state can have done. -/
inductive StepOutcome (s : State) : State → Prop
  | reset (hr : s.resetReq = true) : StepOutcome s s.restart
  | takes {stream unitStream : List Byte} {t : State} (hr : s.resetReq = false)
      (outcome : TakenOutcome (s.withPorts stream unitStream) t) : StepOutcome s t
  | waits (hr : s.resetReq = false) : StepOutcome s s

theorem step_outcome {s t : State} (h : step s = .next t) : StepOutcome s t := by
  cases hr : s.resetReq with
  | true =>
    rw [step_of_reset hr] at h
    cases h
    exact .reset hr
  | false =>
    by_cases hu : s.unitStream = []
    · rw [step, fetch_of_host hr hu, fetchHost] at h
      split at h
      next i u hfetch =>
        split at hfetch <;> cases hfetch
        next rest hd => exact .takes (stream := rest) (unitStream := s.unitStream) hr (exec_outcome h)
      next u hfetch =>
        cases h
        split at hfetch <;> cases hfetch
        next c hd =>
          exact .takes (stream := s.stream.drop 1) (unitStream := s.unitStream) hr (illegalCommand_outcome _ c)
        next e hd => exact .waits hr
      next => cases h
    · rw [step, fetch_of_unit hr hu, fetchUnit] at h
      split at h
      next i u hfetch =>
        split at hfetch <;> cases hfetch
        next rest hd => exact .takes (stream := s.stream) (unitStream := rest) hr (exec_outcome h)
      next u hfetch => split at hfetch <;> cases hfetch
      next => cases h

end Sys2Proof.Machine
end

section
/-! PROOFS. The block's invariant, and what reset's check finds (R14, R19, R20, R167). -/

namespace Sys2Proof.Machine

/-! ## The invariant -/

theorem Filter.hasConstants_of_withHistory_eq {f g : Filter} {fp : Fp} {p : FilterParams}
    (h : g.withHistory 0 0 0 0 = f.withHistory 0 0 0 0) (hf : f.hasConstants fp p) : g.hasConstants fp p := by
  have hg : (g.withHistory 0 0 0 0).hasConstants fp p := h ▸ f.withHistory_hasConstants fp p 0 0 0 0 hf
  exact hg

theorem BodyFrame.configLoaded {s t : State} (h : BodyFrame s t) (hs : ConfigLoaded s) : ConfigLoaded t := by
  obtain ⟨hde, hpre, hnet⟩ := hs
  rw [ConfigLoaded, h.cfg, h.net]
  exact ⟨Filter.hasConstants_of_withHistory_eq h.deC hde, Filter.hasConstants_of_withHistory_eq h.preC hpre, hnet⟩

theorem BodyFrame.blockInv {s t : State} (h : BodyFrame s t) (hs : BlockInv s) : BlockInv t := by
  obtain ⟨hdepth, hcode, hrun⟩ := hs
  refine ⟨h.depth hdepth, ?_, ?_⟩
  · rwa [FaultCodeAgrees, h.faulted, h.code]
  · rw [h.faulted, h.cfg]
    exact fun hf => ⟨h.configLoaded (hrun hf).1, (hrun hf).2⟩

theorem raiseCode_range (x : Raise) : 1 ≤ (raiseCode x).toNat ∧ (raiseCode x).toNat ≤ 9 := by
  cases x <;> simp [raiseCode]

/-- Fault entry establishes the invariant from any state: what R14 and R20 say is all it says of a faulted block. -/
theorem takeFault_blockInv (x : Raise) (s : State) : BlockInv (s.takeFault x) :=
  ⟨takeFault_accWithinDepth x s, ⟨nofun, fun _ => raiseCode_range x⟩, nofun⟩

theorem blockInv_conclude {s : State} {r : Result} {es : List Event} : BlockInv (s.conclude r es) ↔ BlockInv s := Iff.rfl

theorem blockInv_yield {s : State} {r : Result} : BlockInv (s.yield r) ↔ BlockInv s := Iff.rfl

theorem blockInv_withPorts {s : State} {stream unitStream : List Byte} :
    BlockInv (s.withPorts stream unitStream) ↔ BlockInv s := Iff.rfl

theorem TakenOutcome.blockInv {s t : State} (h : TakenOutcome s t) (hs : BlockInv s) : BlockInv t := by
  cases h with
  | refused => exact blockInv_conclude.mpr hs
  | returned hf frame => exact blockInv_conclude.mpr (frame.blockInv hs)
  | faults => exact blockInv_conclude.mpr (takeFault_blockInv _ _)

/-- Reset with a legal configuration establishes the invariant from any state (R166). -/
theorem load_blockInv_of_legal {s : State} (h : ConfigLegal s.cfg) : BlockInv s.load := by
  rw [load_of_legal h]
  exact ⟨fun _ _ => Nat.zero_le _, ⟨fun _ => rfl, nofun⟩,
    fun _ => ⟨⟨loadFilter_hasConstants _ _, loadFilter_hasConstants _ _, rfl⟩, h⟩⟩

theorem exists_firstInvalid {p : Params} (h : ¬ ConfigLegal p) : ∃ q, firstInvalid p = some q := by
  rwa [← firstInvalid_eq_none, ← ne_eq, Option.ne_none_iff_exists'] at h

theorem load_eq_takeFault {s : State} {p : ConfigParam} (h : firstInvalid s.cfg = some p) :
    ∃ t : State, s.load = (t.takeFault (.configInvalid p)).yield (.fault (.configInvalid p)) := by
  rw [State.load, h]
  exact ⟨_, rfl⟩

/-- Reset ends running with a legal configuration loaded, or in a fault's entry (R166, R167). -/
theorem load_blockInv (s : State) : BlockInv s.load := by
  by_cases h : ConfigLegal s.cfg
  · exact load_blockInv_of_legal h
  · obtain ⟨p, hp⟩ := exists_firstInvalid h
    obtain ⟨t, ht⟩ := load_eq_takeFault hp
    rw [ht]
    exact blockInv_yield.mpr (takeFault_blockInv _ t)

theorem restart_blockInv (s : State) : BlockInv s.restart := load_blockInv s

theorem load_cfg (s : State) : s.load.cfg = s.cfg := by
  rw [State.load]
  cases firstInvalid s.cfg <;> rfl

/-! ## The checks of reset -/

theorem constChecks_sound {p : Params} {f : FilterId} {c : Bool × ConfigParam}
    (hc : c ∈ constChecks p.fp f (paramsOf p f)) (h : c.1 = true) : c.2.violated p := by
  have hconst : ∃ k, c = (!p.fp.isFinite (constValue p.fp (paramsOf p f) k), .filterConst f k) := by
    simp only [constChecks, List.mem_cons, List.not_mem_nil, or_false] at hc
    rcases hc with rfl | rfl | rfl | rfl | rfl | rfl | rfl
    exacts [⟨.b0, rfl⟩, ⟨.b1, rfl⟩, ⟨.b2, rfl⟩, ⟨.a0, rfl⟩, ⟨.a1, rfl⟩, ⟨.a2, rfl⟩, ⟨.g, rfl⟩]
  obtain ⟨k, rfl⟩ := hconst
  exact .inl (by simpa using h)

theorem tagChecks_sound {p : Params} {c : Bool × ConfigParam} (hc : c ∈ tagChecks p.tags) (h : c.1 = true) :
    c.2.violated p := by
  simp only [tagChecks, List.mem_cons, List.not_mem_nil, or_false] at hc
  rcases hc with rfl | rfl | rfl | rfl | rfl | rfl
  all_goals simpa [ConfigParam.violated, tagValue, Config.tagUnrecognised] using h

/-- A check that is true names a parameter that violates it. -/
theorem configChecks_sound {p : Params} {c : Bool × ConfigParam} (hc : c ∈ configChecks p) (h : c.1 = true) :
    c.2.violated p := by
  simp only [configChecks, List.mem_append, List.mem_cons, List.not_mem_nil, or_false] at hc
  rcases hc with ((((rfl | rfl) | hde) | hpre) | htag) | rfl | rfl | rfl
  · exact .inr ⟨rfl, h⟩
  · exact .inr ⟨rfl, h⟩
  · exact constChecks_sound (f := .de) hde h
  · exact constChecks_sound (f := .pre) hpre h
  · exact tagChecks_sound htag h
  · exact of_decide_eq_true (p := p.drainCap < 3) h
  · exact of_decide_eq_true (p := p.outCapMax < 3) h
  · exact of_decide_eq_true (p := p.netReadMax < 4) h

theorem firstInvalid_violated {p : Params} {q : ConfigParam} (h : firstInvalid p = some q) : q.violated p := by
  rw [firstInvalid, Option.map_eq_some_iff] at h
  obtain ⟨c, hfind, rfl⟩ := h
  exact configChecks_sound (List.mem_of_find?_eq_some hfind) (List.find?_some hfind)

theorem filterLegal_constValue {fp : Fp} {p : FilterParams} (h : filterLegal fp p = true) (c : FilterConst) :
    fp.isFinite (constValue fp p c) = true := by
  simp only [filterLegal, Bool.and_eq_true] at h
  cases c <;> simp [constValue, h]

theorem filterLegal_a0 {fp : Fp} {p : FilterParams} (h : filterLegal fp p = true) : fp.isZero p.a0 = false := by
  simp only [filterLegal, Bool.and_eq_true, Bool.not_eq_true'] at h
  simp [h]

theorem filterLegal_not_violated {p : Params} {f : FilterId} (h : filterLegal p.fp (paramsOf p f) = true) (c : FilterConst) :
    ¬ (ConfigParam.filterConst f c).violated p := by
  rintro (hfinite | ⟨rfl, hzero⟩)
  · simp [filterLegal_constValue h] at hfinite
  · simp [constValue, filterLegal_a0 h] at hzero

theorem tagValue_injective {t : Tags} (h : t.legal = true) {a b : TagName} (hab : tagValue t a = tagValue t b) : a = b := by
  simp only [Tags.legal, Bool.and_eq_true, bne_iff_ne, ne_eq] at h
  obtain ⟨⟨⟨⟨⟨hhd, hhe⟩, hde⟩, -⟩, -⟩, -⟩ := h
  cases a <;> cases b <;> simp_all [tagValue, eq_comm]

theorem tagValue_ne_unrecognised {t : Tags} (h : t.legal = true) (a : TagName) : tagValue t a ≠ 0x7F := by
  simp only [Tags.legal, Bool.and_eq_true, bne_iff_ne, Config.tagUnrecognised] at h
  obtain ⟨⟨⟨-, hheader⟩, hdata⟩, heot⟩ := h
  cases a
  exacts [hheader, hdata, heot]

theorem not_violated_of_legal {p : Params} (h : ConfigLegal p) (q : ConfigParam) : ¬ q.violated p := by
  obtain ⟨hde, hpre, htags, hdrain, hout, hread⟩ := h
  cases q with
  | filterConst f c =>
    cases f with
    | de => exact filterLegal_not_violated (f := .de) hde c
    | pre => exact filterLegal_not_violated (f := .pre) hpre c
  | tagPair a b => exact fun hv => hv.1 (tagValue_injective htags hv.2)
  | tag t => exact tagValue_ne_unrecognised htags t
  | drainCap => exact Nat.not_lt.mpr hdrain
  | outCapMax => exact Nat.not_lt.mpr hout
  | netReadMax => exact Nat.not_lt.mpr hread

/-! ## The filter unit -/

theorem execBiquadStep_of_running {s : State} (hf : s.faulted = false) (id : FilterId) (x : F32) :
    execBiquadStep id x s = .next ((s.withFilter id (filterStep s.cfg.fp (s.filter id) x).2).yield
      (.float (filterStep s.cfg.fp (s.filter id) x).1)) := by
  rw [execBiquadStep]
  exact runInner_ok hf rfl

end Sys2Proof.Machine
end

section
/-! PROOFS. The family 10_state.md: steps, resets and the invariant. -/

open Sys2Proof Sys2Proof.Machine

/-- Settles O14: a body keeps the invariant (its frame), and fault entry and reset establish it from any state. -/
theorem everyStepKeepsTheBlockInvariant : Obligations.EveryStepKeepsTheBlockInvariant := by
  unfold Obligations.EveryStepKeepsTheBlockInvariant
  intro s t hs h
  cases step_outcome h with
  | reset => exact restart_blockInv s
  | takes hr outcome => exact outcome.blockInv (blockInv_withPorts.mpr hs)
  | waits => exact hs

/-- Settles O10: of the outcomes of a step, a faulted block that is not reset can only refuse or wait. -/
theorem faultIsStickyUntilReset : Obligations.FaultIsStickyUntilReset := by
  unfold Obligations.FaultIsStickyUntilReset
  intro s t hf hr h
  cases step_outcome h with
  | reset hreset => simp [hr] at hreset
  | takes _ outcome =>
    cases outcome with
    | @refused es _ hes => exact ⟨hf, rfl, rfl, rfl, rfl, rfl, rfl, rfl, rfl, rfl, es, rfl, hes⟩
    | returned hrun => simp [hf] at hrun
    | faults hrun => simp [hf] at hrun
  | waits => exact ⟨hf, rfl, rfl, rfl, rfl, rfl, rfl, rfl, rfl, rfl, [], by simp, by simp⟩

/-- Settles O12: the checks of reset are sound for `violated`, and a legal configuration violates none. -/
theorem invalidConfigurationFaultsAtReset : Obligations.InvalidConfigurationFaultsAtReset := by
  unfold Obligations.InvalidConfigurationFaultsAtReset
  intro s hr
  refine ⟨fun hillegal => ?_, fun hlegal => ⟨⟨s.restart, step_of_reset hr, ?_⟩, not_violated_of_legal hlegal⟩⟩
  · obtain ⟨p, hp⟩ := exists_firstInvalid hillegal
    obtain ⟨hfaulted, hcode, hresult, -, -⟩ := load_of_invalid hp
    exact ⟨p, s.restart, step_of_reset hr, hfaulted, hcode, hresult, firstInvalid_violated hp⟩
  · rw [State.restart, load_of_legal hlegal]

/-- Settles O16: the frame of a body holds the constants and NET_PRESENT, and nothing writes the parameters. -/
theorem onlyResetWritesTheConstants : Obligations.OnlyResetWritesTheConstants := by
  unfold Obligations.OnlyResetWritesTheConstants
  intro s t h
  cases step_outcome h with
  | reset hr => exact ⟨load_cfg s, by simp [hr]⟩
  | takes hr outcome =>
    cases outcome with
    | refused => exact ⟨rfl, fun _ _ => ⟨rfl, rfl, rfl⟩⟩
    | returned hf frame => exact ⟨frame.cfg, fun _ _ => ⟨frame.deC, frame.preC, frame.net⟩⟩
    | faults hf frame =>
      refine ⟨frame.cfg, fun _ hsame => ?_⟩
      rw [State.withPorts_faulted] at hf
      simp [hf] at hsame
  | waits => exact ⟨rfl, fun _ _ => ⟨rfl, rfl, rfl⟩⟩

/-- Settles O58: the unit's raw output is the equation in its written order, and its shift is the record's. -/
theorem biquadStepFollowsTheEquation : Obligations.BiquadStepFollowsTheEquation := by
  unfold Obligations.BiquadStepFollowsTheEquation
  rintro s x y z hf rfl rfl
  exact ⟨execBiquadStep_of_running hf .de x, execBiquadStep_of_running hf .pre x⟩

/-- Settles O1: with no reset asked for, `step` is `exec` of what the port's decoder reads. -/
theorem stepRunsTheDecodedOperation : Obligations.StepRunsTheDecodedOperation := by
  unfold Obligations.StepRunsTheDecodedOperation
  intro s i rest hr
  refine ⟨fun hu hd => ?_, fun hu hd => ?_⟩
  · simp only [step, fetch_of_host hr hu, fetchHost, hd]
  · simp only [step, fetch_of_unit hr hu, fetchUnit, hd]

/-- Settles O15: the reset state is a reset with the installed parameters, which are legal. -/
theorem resetHasTheBlockInvariant : Obligations.ResetHasTheBlockInvariant := by
  unfold Obligations.ResetHasTheBlockInvariant
  rw [reset_eq_load]
  exact load_blockInv_of_legal installedParams_legal

/-- Settles O13: the histories are binary32's `+0.0`, and the invariant of a running block is the configuration loaded. -/
theorem resetStateHoldsTheResetValues : Obligations.ResetStateHoldsTheResetValues := by
  unfold Obligations.ResetStateHoldsTheResetValues
  obtain ⟨-, -, hrun⟩ := resetHasTheBlockInvariant
  exact ⟨rfl, rfl, rfl, rfl, rfl, rfl, rfl, rfl, rfl, rfl, rfl, hrun rfl⟩

end

section
/-! PROOFS. Each direction's body sees only its own part of the state (R18, R25): run on that part put into other surroundings,
it does the same there and leaves the surroundings alone. -/

namespace Sys2Proof.Machine

/-! ## Bodies under a map of the state -/

/-- What a body ends in, its state mapped. -/
def Ran.mapState {α : Type} (g : State → State) : Ran α → Ran α
  | .ok v s => .ok v (g s)
  | .raised x s => .raised x (g s)
  | .stuck r => .stuck r

theorem Ran.mapState_eq_ok {α : Type} {g : State → State} {m : Ran α} {v : α} {t : State} :
    m.mapState g = .ok v t ↔ ∃ t₀, m = .ok v t₀ ∧ t = g t₀ := by
  cases m <;> simp [Ran.mapState, eq_comm]

theorem Ran.mapState_eq_raised {α : Type} {g : State → State} {m : Ran α} {x : Raise} {t : State} :
    m.mapState g = .raised x t ↔ ∃ t₀, m = .raised x t₀ ∧ t = g t₀ := by
  cases m <;> simp [Ran.mapState, eq_comm]

theorem Ran.andThen_mapState {α β : Type} {g : State → State} {f : α → State → Ran β}
    (h : ∀ v s, f v (g s) = (f v s).mapState g) (m : Ran α) : (m.mapState g).andThen f = (m.andThen f).mapState g := by
  cases m with
  | ok v s => exact h v s
  | raised x s => rfl
  | stuck r => rfl

section

variable {i : Instr} {body : State → Ran Result} {s s₀ : State} {put : State → State}
  (hbody : body s = (body s₀).mapState put)

include hbody

theorem runCommand_ok_of_mapState {r : Result} {t₀ : State} (hf : s.faulted = false) (h : body s₀ = .ok r t₀) :
    runCommand i body s = .next ((put t₀).report i r) :=
  runCommand_ok hf (hbody.trans (congrArg (Ran.mapState put) h))

theorem runCommand_raised_of_mapState {x : Raise} {t₀ : State} (hf : s.faulted = false) (h : body s₀ = .raised x t₀) :
    runCommand i body s = .next (((put t₀).takeFault x).report i (.fault x)) :=
  runCommand_raised hf (hbody.trans (congrArg (Ran.mapState put) h))

/-- What a command can have done, in terms of its body's run on the part of the state that it sees. -/
theorem runCommand_next_of_mapState {t : State} (h : runCommand i body s = .next t) :
    (s.faulted = true ∧ t = s.report i .refused) ∨
    (s.faulted = false ∧ ∃ r t₀, body s₀ = .ok r t₀ ∧ t = (put t₀).report i r) ∨
    (s.faulted = false ∧ ∃ x t₀, body s₀ = .raised x t₀ ∧ t = ((put t₀).takeFault x).report i (.fault x)) := by
  obtain hrefused | ⟨hf, r, u, hb, rfl⟩ | ⟨hf, x, u, hb, rfl⟩ := runCommand_next h
  · exact .inl hrefused
  · obtain ⟨t₀, h₀, rfl⟩ := Ran.mapState_eq_ok.mp (hbody.symm.trans hb)
    exact .inr (.inl ⟨hf, r, t₀, h₀, rfl⟩)
  · obtain ⟨t₀, h₀, rfl⟩ := Ran.mapState_eq_raised.mp (hbody.symm.trans hb)
    exact .inr (.inr ⟨hf, x, t₀, h₀, rfl⟩)

end

/-! ## The part that M2N sees -/

/-- M2N's part of `s` in the surroundings `v`. Of the trace that is what was logged since `v`. -/
def State.putM2n (v s : State) : State :=
  { v with
    cfg := s.cfg, netPresent := s.netPresent, acc := s.acc, de := s.de, eotDraws := s.eotDraws, dataDraws := s.dataDraws
    freeCount := s.freeCount, trace := v.trace ++ s.trace }

/-- Two states hold the same in M2N's part, the trace apart. -/
structure M2nAgree (s v : State) : Prop where
  cfg : v.cfg = s.cfg
  net : v.netPresent = s.netPresent
  acc : v.acc = s.acc
  de : v.de = s.de
  eots : v.eotDraws = s.eotDraws
  datas : v.dataDraws = s.dataDraws
  count : v.freeCount = s.freeCount

theorem M2nAgree.refl (s : State) : M2nAgree s s := ⟨rfl, rfl, rfl, rfl, rfl, rfl, rfl⟩

theorem M2nAgree.putM2n_eq {s v : State} (h : M2nAgree s v) : v.putM2n { s with trace := [] } = v := by
  obtain ⟨hcfg, hnet, hacc, hde, heots, hdatas, hcount⟩ := h
  simp [State.putM2n, ← hcfg, ← hnet, ← hacc, ← hde, ← heots, ← hdatas, ← hcount]

theorem accAppend_putM2n (bytes : List Byte) (v s : State) :
    accAppend bytes (v.putM2n s) = (accAppend bytes s).mapState v.putM2n := by
  rw [accAppend, accAppend, apply_ite (Ran.mapState v.putM2n)]
  rfl

theorem accDrain_putM2n (n : Nat) (v s : State) : accDrain n (v.putM2n s) = (accDrain n s).mapState v.putM2n := by
  rw [accDrain, accDrain, apply_ite (Ran.mapState v.putM2n)]
  rfl

theorem netWriteEot_putM2n (v s : State) :
    netWriteEot (v.putM2n s) = ((netWriteEot s).1, v.putM2n (netWriteEot s).2) := by
  cases h : s.eotDraws <;> simp [netWriteEot, State.putM2n, State.logEvent, h]

theorem netWriteData_putM2n (bytes : List Byte) (v s : State) :
    netWriteData bytes (v.putM2n s) = ((netWriteData bytes s).1, v.putM2n (netWriteData bytes s).2) := by
  cases h : s.dataDraws <;> simp [netWriteData, State.putM2n, State.logEvent, h]

theorem withFilter_de_putM2n (v s : State) (f : Filter) :
    (v.putM2n s).withFilter .de f = v.putM2n (s.withFilter .de f) := rfl

theorem sendGroups_putM2n (d : List Byte) (v s : State) :
    sendGroups d (v.putM2n s) = (sendGroups d s).mapState v.putM2n := by
  have hsame : groupsToNet (v.putM2n s).cfg.fp (v.putM2n s).de d = groupsToNet s.cfg.fp s.de d := rfl
  rw [sendGroups, sendGroups, hsame]
  cases groupsToNet s.cfg.fp s.de d with
  | error bits => rfl
  | ok g => simp only [withFilter_de_putM2n, netWriteData_putM2n, Ran.mapState]

theorem armEot_putM2n (v s : State) : armEot (v.putM2n s) = (armEot s).mapState v.putM2n := by
  rw [armEot, armEot, apply_ite (Ran.mapState v.putM2n), netWriteEot_putM2n]
  rfl

theorem armData_putM2n (payload : List Byte) (v s : State) :
    armData payload (v.putM2n s) = (armData payload s).mapState v.putM2n := by
  rw [armData, armData, apply_ite (Ran.mapState v.putM2n), accAppend_putM2n, Ran.andThen_mapState]
  · rfl
  · intro _ t
    rw [accDrain_putM2n, Ran.andThen_mapState fun d u => sendGroups_putM2n d v u, apply_ite (Ran.mapState v.putM2n)]
    rfl

theorem bodyM2n_putM2n (c : Option (List Byte)) (v s : State) :
    bodyM2n c (v.putM2n s) = (bodyM2n c s).mapState v.putM2n := by
  match c with
  | none => rfl
  | some [] => rfl
  | some (tag :: payload) =>
    have hsame : classifyTag (v.putM2n s).cfg.tags tag = classifyTag s.cfg.tags tag := rfl
    rw [bodyM2n, bodyM2n, dispatchTag, dispatchTag, hsame]
    cases classifyTag s.cfg.tags tag with
    | header => rfl
    | eot => exact armEot_putM2n v s
    | data => exact armData_putM2n payload v s
    | other => rfl

theorem M2nAgree.bodyM2n_eq {s v : State} (h : M2nAgree s v) (c : Option (List Byte)) :
    bodyM2n c v = (bodyM2n c { s with trace := [] }).mapState v.putM2n := by
  rw [← bodyM2n_putM2n, h.putM2n_eq]

/-! ## The part that N2M sees -/

/-- N2M's part of `s` in the surroundings `v`. Of the trace that is what was logged since `v`. -/
def State.putN2m (v s : State) : State :=
  { v with
    cfg := s.cfg, netPresent := s.netPresent, pre := s.pre, buf := s.buf, readDraws := s.readDraws
    freeCount := s.freeCount, trace := v.trace ++ s.trace }

/-- As `putN2m`, for an N2M that draws no free value: the counter is the surroundings'. -/
def State.putScheduledN2m (v s : State) : State := { v.putN2m s with freeCount := v.freeCount }

/-- N2M draws no free value: its read is scheduled or its collaborator absent. -/
def State.ReadScheduled (s : State) : Prop := s.readDraws ≠ [] ∨ s.netPresent = false

/-- Two states hold the same in N2M's part, the trace and the counter of free values apart. -/
structure N2mAgree (s v : State) : Prop where
  cfg : v.cfg = s.cfg
  net : v.netPresent = s.netPresent
  pre : v.pre = s.pre
  buf : v.buf = s.buf
  reads : v.readDraws = s.readDraws

theorem N2mAgree.refl (s : State) : N2mAgree s s := ⟨rfl, rfl, rfl, rfl, rfl⟩

theorem N2mAgree.putN2m_eq {s v : State} (h : N2mAgree s v) (hcount : v.freeCount = s.freeCount) :
    v.putN2m { s with trace := [] } = v := by
  obtain ⟨hcfg, hnet, hpre, hbuf, hreads⟩ := h
  simp [State.putN2m, ← hcfg, ← hnet, ← hpre, ← hbuf, ← hreads, ← hcount]

theorem N2mAgree.putScheduledN2m_eq {s v : State} (h : N2mAgree s v) :
    v.putScheduledN2m { s with trace := [] } = v := by
  obtain ⟨hcfg, hnet, hpre, hbuf, hreads⟩ := h
  simp [State.putScheduledN2m, State.putN2m, ← hcfg, ← hnet, ← hpre, ← hbuf, ← hreads]

/-- A map of the state that keeps what N2M reads and respects what it stores. -/
structure KeepsN2m (g : State → State) : Prop where
  cfg : ∀ s, (g s).cfg = s.cfg
  net : ∀ s, (g s).netPresent = s.netPresent
  pre : ∀ s, (g s).pre = s.pre
  buf : ∀ s, (g s).buf = s.buf
  store : ∀ s f b, ((g s).withFilter .pre f).withBuf b = g ((s.withFilter .pre f).withBuf b)

theorem keepsN2m_putN2m (v : State) : KeepsN2m v.putN2m :=
  ⟨fun _ => rfl, fun _ => rfl, fun _ => rfl, fun _ => rfl, fun _ _ _ => rfl⟩

theorem keepsN2m_putScheduledN2m (v : State) : KeepsN2m v.putScheduledN2m :=
  ⟨fun _ => rfl, fun _ => rfl, fun _ => rfl, fun _ => rfl, fun _ _ _ => rfl⟩

theorem netRead_putN2m (maxLength : Nat) (v s : State) :
    netRead maxLength (v.putN2m s) = (netRead maxLength s).mapState v.putN2m := by
  cases h : s.readDraws with
  | nil => simp [netRead, State.putN2m, State.logEvent, h, Ran.mapState]
  | cons bytes more =>
    by_cases hlen : maxLength < bytes.length <;> simp [netRead, State.putN2m, State.logEvent, h, hlen, Ran.mapState]

theorem netRead_putScheduledN2m (maxLength : Nat) (v : State) {s : State} (h : s.readDraws ≠ []) :
    netRead maxLength (v.putScheduledN2m s) = (netRead maxLength s).mapState v.putScheduledN2m := by
  obtain ⟨bytes, more, hd⟩ := List.exists_cons_of_ne_nil h
  by_cases hlen : maxLength < bytes.length <;>
    simp [netRead, State.putScheduledN2m, State.putN2m, State.logEvent, hd, hlen, Ran.mapState]

section

variable {g : State → State} (hg : KeepsN2m g)

include hg

theorem receiveSamples_mapState (buf : List Byte) (capacity : Nat) (rd : List Byte) (s : State) :
    receiveSamples buf capacity rd (g s) = (receiveSamples buf capacity rd s).mapState g := by
  simp only [receiveSamples, hg.cfg, hg.pre, hg.store]
  split <;> rfl

theorem bodyN2m_mapState (c : BitVec 16) {s : State}
    (hread : s.netPresent = true → netRead s.cfg.netReadMax (g s) = (netRead s.cfg.netReadMax s).mapState g) :
    bodyN2m c (g s) = (bodyN2m c s).mapState g := by
  rw [bodyN2m, bodyN2m, hg.buf]
  cases s.buf with
  | none => rfl
  | some buf =>
    by_cases hc : c = 0
    · simp only [hc, if_true, Ran.mapState]
    cases hnet : s.netPresent with
    | false => simp only [hc, hg.net, hnet, if_false, Bool.false_eq_true, Ran.mapState]
    | true =>
      simp only [hc, hg.net, hg.cfg, hnet, if_false, if_true]
      rw [hread hnet]
      refine Ran.andThen_mapState (fun rd t => ?_) _
      rw [receiveSamples_mapState hg, apply_ite (Ran.mapState g)]
      rfl

end

theorem N2mAgree.bodyN2m_eq {s v : State} (h : N2mAgree s v) (hcount : v.freeCount = s.freeCount) (c : BitVec 16) :
    bodyN2m c v = (bodyN2m c { s with trace := [] }).mapState v.putN2m := by
  rw [← bodyN2m_mapState (keepsN2m_putN2m v) c fun _ => netRead_putN2m _ v _, h.putN2m_eq hcount]

theorem N2mAgree.bodyN2m_eq_of_scheduled {s v : State} (h : N2mAgree s v) (hs : s.ReadScheduled) (c : BitVec 16) :
    bodyN2m c v = (bodyN2m c { s with trace := [] }).mapState v.putScheduledN2m := by
  rw [← bodyN2m_mapState (keepsN2m_putScheduledN2m v) c, h.putScheduledN2m_eq]
  intro hnet
  exact netRead_putScheduledN2m _ v (hs.resolve_right (by simpa using hnet))

end Sys2Proof.Machine
end

section
/-! PROOFS. M2N and N2M write and read their own part only, and commute where neither faults (R18, R25, R43). -/

namespace Sys2Proof.Machine

/-! ## What a direction writes -/

theorem execM2n_keeps_n2m {s t : State} {c : Option (List Byte)} (h : execM2n c s = .next t) :
    t.buf = s.buf ∧ t.readDraws = s.readDraws ∧ (t.faulted = s.faulted → t.pre = s.pre) := by
  obtain ⟨-, rfl⟩ | ⟨-, r, t₀, -, rfl⟩ | ⟨hf, x, t₀, -, rfl⟩ :=
    runCommand_next_of_mapState ((M2nAgree.refl s).bodyM2n_eq c) h
  · exact ⟨rfl, rfl, fun _ => rfl⟩
  · exact ⟨rfl, rfl, fun _ => rfl⟩
  · exact ⟨rfl, rfl, fun hsame => by simp [hf] at hsame⟩

theorem execN2m_keeps_m2n {s t : State} {c : BitVec 16} (h : execN2m c s = .next t) :
    t.eotDraws = s.eotDraws ∧ t.dataDraws = s.dataDraws ∧ (t.faulted = s.faulted → t.acc = s.acc ∧ t.de = s.de) := by
  obtain ⟨-, rfl⟩ | ⟨-, r, t₀, -, rfl⟩ | ⟨hf, x, t₀, -, rfl⟩ :=
    runCommand_next_of_mapState ((N2mAgree.refl s).bodyN2m_eq rfl c) h
  · exact ⟨rfl, rfl, fun _ => ⟨rfl, rfl⟩⟩
  · exact ⟨rfl, rfl, fun _ => ⟨rfl, rfl⟩⟩
  · exact ⟨rfl, rfl, fun hsame => by simp [hf] at hsame⟩

/-! ## What a direction reads -/

/-- The fault fields and the trace are the same. -/
structure SameStatus (s v : State) : Prop where
  faulted : v.faulted = s.faulted
  code : v.faultCode = s.faultCode
  trace : v.trace = s.trace

theorem SameStatus.report {s v : State} (h : SameStatus s v) (i : Instr) (r : Result) :
    SameStatus (s.report i r) (v.report i r) :=
  ⟨h.faulted, h.code, by simp [h.trace]⟩

theorem SameStatus.takeFault {s v : State} (h : SameStatus s v) (x : Raise) : SameStatus (s.takeFault x) (v.takeFault x) :=
  ⟨rfl, rfl, h.trace⟩

theorem SameStatus.putM2n {s v : State} (h : SameStatus s v) (t : State) : SameStatus (s.putM2n t) (v.putM2n t) :=
  ⟨h.faulted, h.code, congrArg (· ++ t.trace) h.trace⟩

theorem SameStatus.putN2m {s v : State} (h : SameStatus s v) (t : State) : SameStatus (s.putN2m t) (v.putN2m t) :=
  ⟨h.faulted, h.code, congrArg (· ++ t.trace) h.trace⟩

/-- How a command ends from `s` and from `v` when its body does the same in the surroundings `put` and `put'`. -/
inductive EndsAlike (i : Instr) (s v : State) (put put' : State → State) : State → State → Prop
  | refused : EndsAlike i s v put put' (s.report i .refused) (v.report i .refused)
  | returned (r : Result) (t₀ : State) : EndsAlike i s v put put' ((put t₀).report i r) ((put' t₀).report i r)
  | faults (hf : s.faulted = false) (x : Raise) (t₀ : State) :
      EndsAlike i s v put put' (((put t₀).takeFault x).report i (.fault x)) (((put' t₀).takeFault x).report i (.fault x))

theorem EndsAlike.same_answer {i : Instr} {s v t u : State} {put put' : State → State} (h : EndsAlike i s v put put' t u)
    (hstart : SameStatus s v) (hput : ∀ t₀, SameStatus (put t₀) (put' t₀)) : u.result = t.result ∧ SameStatus t u := by
  cases h with
  | refused => exact ⟨rfl, hstart.report i _⟩
  | returned r t₀ => exact ⟨rfl, (hput t₀).report i r⟩
  | faults hf x t₀ => exact ⟨rfl, ((hput t₀).takeFault x).report i _⟩

theorem runCommand_endsAlike {i : Instr} {body : State → Ran Result} {s v s₀ t : State} {put put' : State → State}
    (hs : body s = (body s₀).mapState put) (hv : body v = (body s₀).mapState put') (hfault : v.faulted = s.faulted)
    (h : runCommand i body s = .next t) : ∃ u, runCommand i body v = .next u ∧ EndsAlike i s v put put' t u := by
  obtain ⟨hf, rfl⟩ | ⟨hf, r, t₀, h₀, rfl⟩ | ⟨hf, x, t₀, h₀, rfl⟩ := runCommand_next_of_mapState hs h
  · exact ⟨_, runCommand_refused (hfault.trans hf), .refused⟩
  · exact ⟨_, runCommand_ok_of_mapState hv (hfault.trans hf) h₀, .returned r t₀⟩
  · exact ⟨_, runCommand_raised_of_mapState hv (hfault.trans hf) h₀, .faults hf x t₀⟩

theorem execM2n_of_agree {s v t : State} {c : Option (List Byte)} (hagree : M2nAgree s v) (hstart : SameStatus s v)
    (h : execM2n c s = .next t) :
    ∃ u, execM2n c v = .next u ∧ u.result = t.result ∧ SameStatus t u ∧
      (t.faulted = s.faulted → u.acc = t.acc ∧ u.de = t.de) := by
  obtain ⟨u, hu, halike⟩ :=
    runCommand_endsAlike ((M2nAgree.refl s).bodyM2n_eq c) (hagree.bodyM2n_eq c) hstart.faulted h
  obtain ⟨hresult, hstatus⟩ := halike.same_answer hstart hstart.putM2n
  refine ⟨u, hu, hresult, hstatus, fun hsame => ?_⟩
  cases halike with
  | refused => exact ⟨hagree.acc, hagree.de⟩
  | returned => exact ⟨rfl, rfl⟩
  | faults hf => simp [hf] at hsame

theorem execN2m_of_agree {s v t : State} {c : BitVec 16} (hagree : N2mAgree s v) (hcount : v.freeCount = s.freeCount)
    (hstart : SameStatus s v) (h : execN2m c s = .next t) :
    ∃ u, execN2m c v = .next u ∧ u.result = t.result ∧ SameStatus t u ∧ u.buf = t.buf ∧
      (t.faulted = s.faulted → u.pre = t.pre) := by
  obtain ⟨u, hu, halike⟩ :=
    runCommand_endsAlike ((N2mAgree.refl s).bodyN2m_eq rfl c) (hagree.bodyN2m_eq hcount c) hstart.faulted h
  obtain ⟨hresult, hstatus⟩ := halike.same_answer hstart hstart.putN2m
  refine ⟨u, hu, hresult, hstatus, ?_⟩
  cases halike with
  | refused => exact ⟨hagree.buf, fun _ => hagree.pre⟩
  | returned => exact ⟨rfl, fun _ => rfl⟩
  | faults hf => exact ⟨rfl, fun hsame => by simp [hf] at hsame⟩

/-! ## Commands without a fault -/

theorem runCommand_next_running {i : Instr} {body : State → Ran Result} {s t : State} (h : runCommand i body s = .next t)
    (ht : t.faulted = false) : s.faulted = false ∧ ∃ r u, body s = .ok r u ∧ t = u.report i r := by
  obtain ⟨hf, rfl⟩ | hok | ⟨-, x, u, -, rfl⟩ := runCommand_next h
  · simp [hf] at ht
  · exact hok
  · simp at ht

theorem nextOf_eq_some {o : Host.Outcome State Fault Refusal} {t : State} : nextOf o = some t ↔ o = .next t := by
  cases o <;> simp [nextOf]

theorem execAll_pair {i j : Instr} {s u : State} :
    execAll [i, j] s = some u ↔ ∃ t, exec i s = .next t ∧ exec j t = .next u := by
  simp [execAll, Option.bind_eq_some_iff, nextOf_eq_some]

theorem M2nAgree.symm {s v : State} (h : M2nAgree s v) : M2nAgree v s :=
  ⟨h.cfg.symm, h.net.symm, h.acc.symm, h.de.symm, h.eots.symm, h.datas.symm, h.count.symm⟩

theorem N2mAgree.symm {s v : State} (h : N2mAgree s v) : N2mAgree v s :=
  ⟨h.cfg.symm, h.net.symm, h.pre.symm, h.buf.symm, h.reads.symm⟩

theorem N2mAgree.readScheduled {s v : State} (h : N2mAgree s v) (hs : s.ReadScheduled) : v.ReadScheduled := by
  rwa [State.ReadScheduled, h.reads, h.net]

/-- An M2N that completes does so, with the same effect, from every state with the same M2N part. -/
theorem M2nAgree.bodyM2n_ok {s v t : State} {c : Option (List Byte)} {r : Result} (h : M2nAgree s v)
    (ht : bodyM2n c s = .ok r t) :
    ∃ w, bodyM2n c v = .ok r w ∧ w.acc = t.acc ∧ w.de = t.de ∧ w.pre = v.pre ∧ w.buf = v.buf ∧ w.faulted = v.faulted := by
  rw [(M2nAgree.refl s).bodyM2n_eq c] at ht
  obtain ⟨t₀, h₀, rfl⟩ := Ran.mapState_eq_ok.mp ht
  exact ⟨v.putM2n t₀, by rw [h.bodyM2n_eq c, h₀, Ran.mapState], rfl, rfl, rfl, rfl, rfl⟩

/-- An N2M that draws no free value and completes does so, with the same effect, from every state with the same N2M part. -/
theorem N2mAgree.bodyN2m_ok {s v u : State} {cap : BitVec 16} {q : Result} (h : N2mAgree s v) (hs : s.ReadScheduled)
    (hu : bodyN2m cap s = .ok q u) :
    ∃ w, bodyN2m cap v = .ok q w ∧ w.pre = u.pre ∧ w.buf = u.buf ∧ w.acc = v.acc ∧ w.de = v.de ∧ w.faulted = v.faulted := by
  rw [(N2mAgree.refl s).bodyN2m_eq_of_scheduled hs cap] at hu
  obtain ⟨u₀, h₀, rfl⟩ := Ran.mapState_eq_ok.mp hu
  exact ⟨v.putScheduledN2m u₀, by rw [h.bodyN2m_eq_of_scheduled hs cap, h₀, Ran.mapState], rfl, rfl, rfl, rfl, rfl⟩

/-- A completed M2N leaves N2M's part as it was. -/
theorem n2mAgree_report_of_m2n {s t : State} {c : Option (List Byte)} {r : Result} (ht : bodyM2n c s = .ok r t) (i : Instr) :
    N2mAgree s (t.report i r) := by
  have hframe := (bodyM2n_frame c s).of_ok ht
  rw [(M2nAgree.refl s).bodyM2n_eq c] at ht
  obtain ⟨t₀, -, rfl⟩ := Ran.mapState_eq_ok.mp ht
  exact ⟨hframe.cfg, hframe.net, rfl, rfl, rfl⟩

/-- A completed N2M that drew no free value leaves M2N's part as it was. -/
theorem m2nAgree_report_of_n2m {s u : State} {cap : BitVec 16} {q : Result} (hs : s.ReadScheduled)
    (hu : bodyN2m cap s = .ok q u) (i : Instr) : M2nAgree s (u.report i q) := by
  have hframe := (bodyN2m_frame cap s).of_ok hu
  rw [(N2mAgree.refl s).bodyN2m_eq_of_scheduled hs cap] at hu
  obtain ⟨u₀, -, rfl⟩ := Ran.mapState_eq_ok.mp hu
  exact ⟨hframe.cfg, hframe.net, rfl, rfl, rfl, rfl, rfl⟩

/-- An M2N and an N2M that both complete from `s` complete one after the other, in either order, each with its own effect. -/
theorem both_orders_complete {s t u : State} {c : Option (List Byte)} {cap : BitVec 16} {r q : Result}
    (hs : s.ReadScheduled) (hf : s.faulted = false) (ht : bodyM2n c s = .ok r t) (hu : bodyN2m cap s = .ok q u) :
    ∃ ab ba, execAll [.m2n c, .n2m cap] s = some ab ∧ execAll [.n2m cap, .m2n c] s = some ba ∧
      ab.faulted = false ∧ ba.faulted = false ∧
      ba.acc = ab.acc ∧ ba.de = ab.de ∧ ba.pre = ab.pre ∧ ba.buf = ab.buf := by
  have htf : t.faulted = false := ((bodyM2n_frame c s).of_ok ht).faulted.trans hf
  have huf : u.faulted = false := ((bodyN2m_frame cap s).of_ok hu).faulted.trans hf
  obtain ⟨a, ha, hapre, habuf, haacc, hade, hafaulted⟩ := (n2mAgree_report_of_m2n ht (.m2n c)).bodyN2m_ok hs hu
  obtain ⟨b, hb, hbacc, hbde, hbpre, hbbuf, hbfaulted⟩ := (m2nAgree_report_of_n2m hs hu (.n2m cap)).bodyM2n_ok ht
  exact ⟨_, _, execAll_pair.mpr ⟨_, runCommand_ok hf ht, runCommand_ok htf ha⟩,
    execAll_pair.mpr ⟨_, runCommand_ok hf hu, runCommand_ok huf hb⟩,
    hafaulted.trans htf, hbfaulted.trans huf,
    hbacc.trans haacc.symm, hbde.trans hade.symm, hbpre.trans hapre.symm, hbbuf.trans habuf.symm⟩

theorem bodies_complete_of_m2n_first {s ab : State} {c : Option (List Byte)} {cap : BitVec 16} (hs : s.ReadScheduled)
    (h : execAll [.m2n c, .n2m cap] s = some ab) (hab : ab.faulted = false) :
    s.faulted = false ∧ (∃ r t, bodyM2n c s = .ok r t) ∧ ∃ q u, bodyN2m cap s = .ok q u := by
  obtain ⟨_, hm, hn⟩ := execAll_pair.mp h
  obtain ⟨htf, q, u, hu, -⟩ := runCommand_next_running hn hab
  obtain ⟨hf, r, t, ht, rfl⟩ := runCommand_next_running hm htf
  have hagree := n2mAgree_report_of_m2n ht (.m2n c)
  obtain ⟨w, hw, -⟩ := hagree.symm.bodyN2m_ok (hagree.readScheduled hs) hu
  exact ⟨hf, ⟨r, t, ht⟩, q, w, hw⟩

theorem bodies_complete_of_n2m_first {s ba : State} {c : Option (List Byte)} {cap : BitVec 16} (hs : s.ReadScheduled)
    (h : execAll [.n2m cap, .m2n c] s = some ba) (hba : ba.faulted = false) :
    s.faulted = false ∧ (∃ r t, bodyM2n c s = .ok r t) ∧ ∃ q u, bodyN2m cap s = .ok q u := by
  obtain ⟨_, hn, hm⟩ := execAll_pair.mp h
  obtain ⟨huf, r, t, ht, -⟩ := runCommand_next_running hm hba
  obtain ⟨hf, q, u, hu, rfl⟩ := runCommand_next_running hn huf
  obtain ⟨w, hw, -⟩ := (m2nAgree_report_of_n2m hs hu (.n2m cap)).symm.bodyM2n_ok ht
  exact ⟨hf, ⟨r, w, hw⟩, q, u, hu⟩

end Sys2Proof.Machine
end

section
/-! PROOFS. The family 10_state.md: the two directions. -/

open Sys2Proof Sys2Proof.Machine

/-- Settles O17: a direction's body run on its part of the state does the same in any surroundings and leaves them alone. -/
theorem directionsShareNoMutableState : Obligations.DirectionsShareNoMutableState := by
  unfold Obligations.DirectionsShareNoMutableState
  refine ⟨fun s t c h => ⟨execM2n_keeps_n2m h, fun pre buf reads => ?_⟩,
    fun s t c h => ⟨execN2m_keeps_m2n h, fun acc de eots datas => ?_⟩⟩
  · obtain ⟨u, hu, hresult, ⟨hfaulted, hcode, htrace⟩, hsame⟩ :=
      execM2n_of_agree (s := s) (v := { s with pre := pre, buf := buf, readDraws := reads })
        ⟨rfl, rfl, rfl, rfl, rfl, rfl, rfl⟩ ⟨rfl, rfl, rfl⟩ h
    exact ⟨u, hu, hresult, hfaulted, hcode, htrace, hsame⟩
  · obtain ⟨u, hu, hresult, ⟨hfaulted, hcode, htrace⟩, hbuf, hsame⟩ :=
      execN2m_of_agree (s := s) (v := { s with acc := acc, de := de, eotDraws := eots, dataDraws := datas })
        ⟨rfl, rfl, rfl, rfl, rfl⟩ rfl ⟨rfl, rfl, rfl⟩ h
    exact ⟨u, hu, hresult, hfaulted, hcode, htrace, hbuf, hsame⟩

/-- Settles O18: if one order completes, both bodies complete from the common state, and then so do both orders. -/
theorem oppositeDirectionsCommute : Obligations.OppositeDirectionsCommute := by
  unfold Obligations.OppositeDirectionsCommute
  intro s c cap hs
  constructor
  · intro ab hab hf
    obtain ⟨hrun, ⟨r, t, ht⟩, q, u, hu⟩ := bodies_complete_of_m2n_first hs hab hf
    obtain ⟨ab', ba, hab', hba, -, hbaf, hsame⟩ := both_orders_complete hs hrun ht hu
    obtain rfl : ab' = ab := Option.some.inj (hab'.symm.trans hab)
    exact ⟨ba, hba, hbaf, hsame⟩
  · intro ba hba hf
    obtain ⟨hrun, ⟨r, t, ht⟩, q, u, hu⟩ := bodies_complete_of_n2m_first hs hba hf
    obtain ⟨ab, ba', hab, hba', habf, -, hsame⟩ := both_orders_complete hs hrun ht hu
    obtain rfl : ba' = ba := Option.some.inj (hba'.symm.trans hba)
    exact ⟨ab, hab, habf, hsame⟩

end

section
/-! PROOFS. The three bytes of PACK12 as arithmetic (R32, R60, R82). -/

namespace Sys2Proof.Machine

/-- The 24-bit word of two integers is the sum of their lanes, each reduced mod 4096 (D6). -/
theorem packValue_toNat (a b : Int) : ((packValue a b).toNat : Int) = a % 4096 * 4096 + b % 4096 := by
  obtain ⟨x, hx⟩ := Int.eq_ofNat_of_zero_le (Int.emod_nonneg a (by decide : (4096 : Int) ≠ 0))
  obtain ⟨y, hy⟩ := Int.eq_ofNat_of_zero_le (Int.emod_nonneg b (by decide : (4096 : Int) ≠ 0))
  have hxlt : x < 2 ^ 12 := by omega
  have hylt : y < 2 ^ 12 := by omega
  have lanes : (packValue a b).toNat = x * 4096 + y := calc
    (packValue a b).toNat = x <<< 12 ||| y := by
      simp [packValue, Config.groupBits, Config.groupSamples, Config.modemBits, hx, hy,
        Nat.mod_eq_of_lt (by omega : x < 16777216), Nat.mod_eq_of_lt (by omega : y < 16777216),
        Nat.mod_eq_of_lt (by rw [Nat.shiftLeft_eq]; omega : x <<< 12 < 16777216)]
    _ = x * 4096 + y := by rw [← Nat.shiftLeft_add_eq_or_of_lt hylt, Nat.shiftLeft_eq]
  rw [lanes, hx, hy]
  push_cast
  rfl

/-- PACK12's bytes are the base-256 digits of its word, most significant first. -/
theorem packTriplet_eq_digits (a b : Int) :
    packTriplet a b = [BitVec.ofNat 8 ((packValue a b).toNat / 65536), BitVec.ofNat 8 ((packValue a b).toNat / 256 % 256),
      BitVec.ofNat 8 ((packValue a b).toNat % 256)] := by
  have digit (n : Nat) : n &&& 255 = n % 256 := Nat.and_two_pow_sub_one_eq_mod n 8
  simp [packTriplet, ← BitVec.toNat_inj, digit, Nat.shiftRight_eq_div_pow, Config.groupBits, Config.groupSamples,
    Config.modemBits]

end Sys2Proof.Machine
end

section
/-! PROOFS. What the body of N2M can end in, and the count that it returns (R46, R125, R126). -/

namespace Sys2Proof.Machine

/-! ## Packing into the buffer -/

@[simp] theorem overwriteFront_nil (buf : List Byte) : overwriteFront buf [] = buf := rfl

theorem overwriteFront_take (buf out : List Byte) : (overwriteFront buf out).take out.length = out :=
  List.take_left

/-- As many bytes are packed as the clamped capacity holds and as the samples give: three for every two. -/
theorem packCount_bounds (samples capacity outCapMax : Nat) :
    3 * packCount samples capacity outCapMax ≤ min capacity outCapMax ∧
      packCount samples capacity outCapMax ≤ samples / 2 := by
  unfold packCount Config.groupSamples Config.groupBytes
  omega

/-- What a non-empty read ends in: the packed bytes stand at the front of the buffer, or a sample was no number. -/
inductive ReceiveOutcome (buf : List Byte) (capacity : Nat) (rd : List Byte) (s : State) : Ran Result → Prop
  | packed {f : Filter} {out : List Byte} (hlength : out.length = 3 * packCount (rd.length / 2) capacity s.cfg.outCapMax) :
      ReceiveOutcome buf capacity rd s
        (.ok (.count out.length out) ((s.withFilter .pre f).withBuf (overwriteFront buf out)))
  | failed {f : Filter} {out : List Byte} {bits : F32} :
      ReceiveOutcome buf capacity rd s
        (.raised (.numericFault bits) ((s.withFilter .pre f).withBuf (overwriteFront buf out)))

theorem receiveSamples_outcome (buf : List Byte) (capacity : Nat) (rd : List Byte) (s : State) :
    ReceiveOutcome buf capacity rd s (receiveSamples buf capacity rd s) := by
  simp only [receiveSamples, filterRun_length, List.length_map, pairSamples_length, Config.groupSamples, Config.groupBytes]
  split
  next hnone =>
    have hbound := (packCount_bounds (rd.length / 2) capacity s.cfg.outCapMax).2
    have hlength := (packPairs_length _).2 hnone
    simp only [List.length_take, filterRun_length, List.length_map, pairSamples_length] at hlength
    rw [show min (2 * packCount (rd.length / 2) capacity s.cfg.outCapMax) (rd.length / 2) / 2 =
      packCount (rd.length / 2) capacity s.cfg.outCapMax by omega] at hlength
    rw [← hlength]
    exact .packed hlength
  next => exact .failed

/-! ## The body of N2M -/

/-- Everything the body of N2M can do, in the order of its checks (R125, R151). -/
inductive N2mOutcome (capacity : BitVec 16) (s : State) : Ran Result → Prop
  | early {x : Raise} : N2mOutcome capacity s (.raised x s)
  | absent {buf : List Byte} (hbuf : s.buf = some buf) (hnet : s.netPresent = false) :
      N2mOutcome capacity s (.ok (.count 0 []) s)
  | empty {buf : List Byte} {t : State} (hbuf : s.buf = some buf) (hnet : s.netPresent = true)
      (hread : netRead s.cfg.netReadMax s = .ok [] t) : N2mOutcome capacity s (.ok (.count 0 []) t)
  | received {buf rd : List Byte} {t : State} {m : Ran Result} (hbuf : s.buf = some buf) (hnet : s.netPresent = true)
      (hread : netRead s.cfg.netReadMax s = .ok rd t) (hm : ReceiveOutcome buf capacity.toNat rd t m) :
      N2mOutcome capacity s m
  | stuck {r : Refusal} : N2mOutcome capacity s (.stuck r)

theorem bodyN2m_outcome (capacity : BitVec 16) (s : State) : N2mOutcome capacity s (bodyN2m capacity s) := by
  unfold bodyN2m
  split
  next => exact .early
  next buf hbuf =>
    split
    next => exact .early
    split
    next hnet =>
      cases hread : netRead s.cfg.netReadMax s with
      | stuck r => exact .stuck
      | raised x t => exact absurd hread netRead_not_raised
      | ok rd t =>
        rw [andThen_ok]
        split
        next hnil => exact .empty hbuf hnet (hnil ▸ hread)
        next => exact .received hbuf hnet hread (receiveSamples_outcome buf capacity.toNat rd t)
    next hnet => exact .absent hbuf (by simpa using hnet)

/-! ## The count -/

/-- `bytes` stand at the front of the buffer of `t`, which is otherwise that of `s`: whole groups within the clamped capacity,
three bytes for every four read. -/
structure WritesCounted (capacity : BitVec 16) (s t : State) (bytes : List Byte) : Prop where
  groups : bytes.length % 3 = 0
  fits : bytes.length ≤ min capacity.toNat s.cfg.outCapMax
  fromRead : bytes.length ≤ 3 * (s.cfg.netReadMax / 4)
  buf : ∃ b, s.buf = some b ∧ t.buf = some (overwriteFront b bytes)

theorem writesCounted_nil (capacity : BitVec 16) {s t : State} {b : List Byte} (hs : s.buf = some b) (ht : t.buf = some b) :
    WritesCounted capacity s t [] :=
  ⟨rfl, Nat.zero_le _, Nat.zero_le _, b, hs, ht⟩

theorem bodyN2m_ok {capacity : BitVec 16} {s t : State} {r : Result} (h : bodyN2m capacity s = .ok r t) :
    ∃ bytes, r = .count bytes.length bytes ∧ WritesCounted capacity s t bytes := by
  have outcome := bodyN2m_outcome capacity s
  rw [h] at outcome
  cases outcome with
  | absent hbuf => exact ⟨[], rfl, writesCounted_nil capacity hbuf hbuf⟩
  | empty hbuf _ hread =>
    obtain ⟨-, draws, k, rfl⟩ := netRead_ok hread
    exact ⟨[], rfl, writesCounted_nil capacity hbuf hbuf⟩
  | received hbuf _ hread hm =>
    obtain ⟨hrd, draws, k, rfl⟩ := netRead_ok hread
    cases hm with
    | packed hlength =>
      obtain ⟨hcap, hsamples⟩ := packCount_bounds _ capacity.toNat s.cfg.outCapMax
      exact ⟨_, rfl, by rw [hlength]; exact Nat.mul_mod_right 3 _, hlength.trans_le hcap,
        hlength.trans_le (Nat.mul_le_mul_left 3 (hsamples.trans (by omega))), _, hbuf, rfl⟩

end Sys2Proof.Machine
end

section
/-! PROOFS. The network transactions that a host command issues (R45, R117). -/

namespace Sys2Proof.Machine

/-- The transactions a host command may issue: the writes belong to M2N, the read of NET_READ_MAX bytes to N2M (R117). -/
inductive MayIssue (netReadMax : Nat) : Instr → Event → Prop
  | writeEot {c : Option (List Byte)} {answer : Bool} : MayIssue netReadMax (.m2n c) (.writeEot answer)
  | writeData {c : Option (List Byte)} {bytes : List Byte} {answer : Bool} :
      MayIssue netReadMax (.m2n c) (.writeData bytes answer)
  | read {capacity : BitVec 16} {bytes : List Byte} : MayIssue netReadMax (.n2m capacity) (.read netReadMax bytes)

theorem MayIssue.isTransaction {netReadMax : Nat} {i : Instr} {e : Event} (h : MayIssue netReadMax i e) :
    e.isTransaction = true := by
  cases h <;> rfl

/-- The body of the command `i`, run from `s`, ended in `t` with at most one transaction, and with none where the collaborator is
absent. -/
inductive Issues (i : Instr) (s t : State) : Prop
  | nothing (htrace : t.trace = s.trace)
  | one {e : Event} (hnet : s.netPresent = true) (he : MayIssue s.cfg.netReadMax i e) (htrace : t.trace = s.trace ++ [e])

/-- The transactions of whatever a body ends in. -/
def RanIssues (i : Instr) (s : State) : Ran Result → Prop
  | .ok _ t => Issues i s t
  | .raised _ t => Issues i s t
  | .stuck _ => True

/-! ## M2N -/

theorem netWriteEot_trace (s : State) : (netWriteEot s).2.trace = s.trace ++ [.writeEot (netWriteEot s).1] := by
  obtain ⟨draws, k, h⟩ := netWriteEot_spec s
  rw [h]

theorem netWriteData_trace (bytes : List Byte) (s : State) :
    (netWriteData bytes s).2.trace = s.trace ++ [.writeData bytes (netWriteData bytes s).1] := by
  obtain ⟨draws, k, h⟩ := netWriteData_spec bytes s
  rw [h]

theorem sendGroups_issues {c : Option (List Byte)} {s u : State} (d : List Byte) (hnet : s.netPresent = true)
    (htrace : u.trace = s.trace) : RanIssues (.m2n c) s (sendGroups d u) := by
  unfold sendGroups
  split
  next => exact .nothing htrace
  next out f hg =>
    have hwrite := netWriteData_trace out (u.withFilter .de f)
    rw [State.withFilter_trace, htrace] at hwrite
    exact .one hnet .writeData hwrite

theorem armEot_issues (c : Option (List Byte)) (s : State) : RanIssues (.m2n c) s (armEot s) := by
  unfold armEot
  split
  next hnet => exact .one hnet .writeEot (netWriteEot_trace s)
  next => exact .nothing rfl

theorem armData_issues (c : Option (List Byte)) (payload : List Byte) (s : State) :
    RanIssues (.m2n c) s (armData payload s) := by
  unfold armData
  split
  next hnet =>
    cases ha : accAppend payload s with
    | stuck r => trivial
    | raised x t =>
      obtain ⟨-, rfl, -⟩ := accAppend_raised ha
      exact .nothing rfl
    | ok v t =>
      obtain ⟨-, rfl⟩ := accAppend_ok ha
      rw [andThen_ok]
      split
      next => exact .nothing rfl
      next =>
        rw [accDrain_of_le (drainAmount_eq _).2, andThen_ok]
        exact sendGroups_issues _ hnet rfl
  next => exact .nothing rfl

theorem bodyM2n_issues (c : Option (List Byte)) (s : State) : RanIssues (.m2n c) s (bodyM2n c s) := by
  unfold bodyM2n
  split
  next => exact .nothing rfl
  next => exact .nothing rfl
  next tag payload =>
    unfold dispatchTag
    split
    next => exact .nothing rfl
    next => exact armEot_issues _ s
    next => exact armData_issues _ payload s
    next => exact .nothing rfl

/-! ## N2M -/

theorem netRead_issues {capacity : BitVec 16} {s t : State} {rd : List Byte} (hnet : s.netPresent = true)
    (h : netRead s.cfg.netReadMax s = .ok rd t) : Issues (.n2m capacity) s t := by
  obtain ⟨-, draws, k, rfl⟩ := netRead_ok h
  exact .one hnet .read rfl

/-- What follows the read logs nothing, so the state before it may stand for the one after. -/
theorem Issues.of_trace_eq {i : Instr} {s t u : State} (h : Issues i s t) (hu : u.trace = t.trace) : Issues i s u := by
  cases h with
  | nothing htrace => exact .nothing (hu.trans htrace)
  | one hnet he htrace => exact .one hnet he (hu.trans htrace)

theorem N2mOutcome.issues {capacity : BitVec 16} {s : State} {m : Ran Result} (h : N2mOutcome capacity s m) :
    RanIssues (.n2m capacity) s m := by
  cases h with
  | early => exact .nothing rfl
  | absent => exact .nothing rfl
  | empty _ hnet hread => exact netRead_issues hnet hread
  | received _ hnet hread hm => cases hm <;> exact (netRead_issues hnet hread).of_trace_eq rfl
  | stuck => trivial

/-! ## Host commands -/

/-- `t` logs, after the trace of `s`, at most one transaction that `i` may issue and then the pair of `i` and its result. -/
structure LogsCommand (i : Instr) (s t : State) (es : List Event) : Prop where
  trace : t.trace = s.trace ++ es ++ [.returned i t.result]
  atMostOne : es.length ≤ 1
  mayIssue : ∀ e ∈ es, MayIssue s.cfg.netReadMax i e
  absent : s.netPresent = false → es = []

theorem Issues.logsCommand {i : Instr} {s u t : State} (h : Issues i s u) (ht : t.trace = u.trace ++ [.returned i t.result]) :
    ∃ es, LogsCommand i s t es := by
  cases h with
  | nothing htrace => exact ⟨[], by rw [ht, htrace, List.append_nil], by simp, by simp, fun _ => rfl⟩
  | @one e hnet he htrace => exact ⟨[e], by rw [ht, htrace], by simp, by simpa using he, by simp [hnet]⟩

theorem runCommand_logsCommand {i : Instr} {body : State → Ran Result} {s t : State} (hbody : RanIssues i s (body s))
    (h : runCommand i body s = .next t) : ∃ es, LogsCommand i s t es := by
  obtain ⟨-, rfl⟩ | ⟨-, r, u, hb, rfl⟩ | ⟨-, x, u, hb, rfl⟩ := runCommand_next h
  · exact (Issues.nothing rfl).logsCommand (u := s) rfl
  · rw [hb] at hbody
    exact hbody.logsCommand rfl
  · rw [hb] at hbody
    exact hbody.logsCommand rfl

theorem exec_logsCommand {i : Instr} {s t : State} (hi : i.level = .host) (h : exec i s = .next t) :
    ∃ es, LogsCommand i s t es := by
  cases i with
  | m2n c => exact runCommand_logsCommand (bodyM2n_issues c s) h
  | n2m capacity => exact runCommand_logsCommand (bodyN2m_outcome capacity s).issues h
  | tick ms => exact runCommand_logsCommand (body := fun t => .ok .done t) (Issues.nothing rfl) h
  | enable flag => exact runCommand_logsCommand (body := fun t => .ok .done t) (Issues.nothing rfl) h
  | _ => cases hi

end Sys2Proof.Machine
end

section
/-! PROOFS. The family 20_memory.md. -/

open Sys2Proof Sys2Proof.Machine

/-- Settles O19: every body issues at most one transaction, and only of the kinds that its command may issue. -/
theorem atMostOneTransactionPerCommand : Obligations.AtMostOneTransactionPerCommand := by
  unfold Obligations.AtMostOneTransactionPerCommand
  intro i s t hi h
  obtain ⟨es, htrace, hone, hmay, habsent⟩ := exec_logsCommand hi h
  refine ⟨es, htrace, hone, fun e he => (hmay e he).isTransaction, habsent, ?_, ?_, ?_, ?_⟩
  · rintro ms rfl
    exact List.eq_nil_iff_forall_not_mem.mpr fun e he => nomatch hmay e he
  · rintro flag rfl
    exact List.eq_nil_iff_forall_not_mem.mpr fun e he => nomatch hmay e he
  · rintro c rfl e he k bs rfl
    cases hmay _ he
  · rintro c rfl e he
    cases hmay e he with
    | read => exact ⟨_, rfl⟩

/-- Settles O38: only a completed body answers a count, and what it wrote is what it counts. -/
theorem n2mStaysWithinItsResult : Obligations.N2mStaysWithinItsResult := by
  unfold Obligations.N2mStaysWithinItsResult
  intro s t c r bytes h hr
  obtain ⟨-, rfl⟩ | ⟨-, q, u, hb, rfl⟩ | ⟨-, x, u, -, rfl⟩ := runCommand_next h
  · cases hr
  · obtain ⟨out, rfl, hgroups, hfits, hread, b, hs, hu⟩ := bodyN2m_ok hb
    cases hr
    exact ⟨hgroups, hfits, fun h168 => by omega, rfl, b, _, hs, hu, overwriteFront_take b bytes,
      overwriteFront_getElem? b bytes⟩
  · cases hr

/-- Settles O46: the block returns the base-256 digits of the word that joins the two reduced lanes. -/
theorem packReducesAndJoins : Obligations.PackReducesAndJoins := by
  unfold Obligations.PackReducesAndJoins
  intro s a b v hf hv
  obtain rfl : v = (packValue a b).toNat := Int.ofNat.inj (hv.trans (packValue_toNat a b).symm)
  rw [← packTriplet_eq_digits]
  exact runInner_ok hf rfl

end

section
/-! PROOFS. The records of the two ports: what a field's reader takes is what the encoder writes (R56, R57, log 6). -/

namespace Sys2Proof

/-! ## Fields -/

theorem withField_append (c : Byte) {k : Nat} {v : List Byte} (rest : List Byte) {f : List Byte → Option Instr} {i : Instr}
    (hv : v.length = k) (hf : f v = some i) : withField c k (v ++ rest) f = .ok (i, rest) := by
  subst hv
  simp only [withField, splitBytes_append, hf]

/-- Whatever a field gives is read from its `k` bytes. -/
theorem withField_eq_ok {c : Byte} {k : Nat} {bs rest : List Byte} {f : List Byte → Option Instr} {i : Instr}
    (h : withField c k bs f = .ok (i, rest)) : ∃ v, v.length = k ∧ f v = some i ∧ v ++ rest = bs := by
  unfold withField at h
  split at h
  next => cases h
  next v more hsplit =>
    obtain ⟨hv, rfl⟩ := splitBytes_some hsplit
    split at h <;> cases h
    next hf => exact ⟨v, hv, hf, rfl⟩

theorem withCounted_counted (c : Byte) {v : List Byte} (rest : List Byte) (f : List Byte → Instr)
    (hv : v.length ≤ Config.chunkMax) : withCounted c (counted v ++ rest) f = .ok (f v, rest) := by
  simp only [withCounted, splitCounted_counted v rest (Nat.lt_succ_of_le hv)]

/-- Whatever a counted sequence gives is read from no more bytes than its 16-bit length spells. -/
theorem withCounted_eq_ok {c : Byte} {bs rest : List Byte} {f : List Byte → Instr} {i : Instr}
    (h : withCounted c bs f = .ok (i, rest)) : ∃ v, v.length ≤ Config.chunkMax ∧ f v = i ∧ counted v ++ rest = bs := by
  unfold withCounted at h
  split at h <;> cases h
  next v hsplit =>
    obtain ⟨hv, rfl⟩ := splitCounted_some hsplit
    exact ⟨v, Nat.le_of_lt_succ hv, rfl, rfl⟩

/-! ## Words -/

theorem ofNat_beNat_beBytes {w k : Nat} (x : BitVec w) (hw : 2 ^ w ≤ 256 ^ k) :
    BitVec.ofNat w (beNat (beBytes k x.toNat)) = x := by
  rw [beNat_beBytes, Nat.mod_eq_of_lt (x.isLt.trans_le hw), BitVec.ofNat_toNat, BitVec.setWidth_eq]

theorem beBytes_toNat_ofNat_beNat {w k : Nat} {v : List Byte} (hv : v.length = k) (hlt : beNat v < 2 ^ w) :
    beBytes k (BitVec.ofNat w (beNat v)).toNat = v := by
  rw [BitVec.toNat_ofNat, Nat.mod_eq_of_lt hlt, ← hv, beBytes_beNat]

theorem beNat_lt_two_pow {w k : Nat} {v : List Byte} (hv : v.length = k) (hw : 256 ^ k ≤ 2 ^ w) : beNat v < 2 ^ w :=
  (hv ▸ beNat_lt v).trans_le hw

/-- A field that one word fills. -/
theorem withField_word (c : Byte) (k : Nat) {w : Nat} (x : BitVec w) (mk : BitVec w → Instr) (rest : List Byte)
    (hw : 2 ^ w ≤ 256 ^ k) :
    withField c k (beBytes k x.toNat ++ rest) (fun v => some (mk (BitVec.ofNat w (beNat v)))) = .ok (mk x, rest) :=
  withField_append c rest (beBytes_length ..) (by rw [ofNat_beNat_beBytes x hw])

theorem withField_word_eq_ok {c : Byte} {k w : Nat} {mk : BitVec w → Instr} {bs rest : List Byte} {i : Instr}
    (h : withField c k bs (fun v => some (mk (BitVec.ofNat w (beNat v)))) = .ok (i, rest)) (hw : 256 ^ k ≤ 2 ^ w) :
    ∃ x, mk x = i ∧ beBytes k x.toNat ++ rest = bs := by
  obtain ⟨v, hv, hmk, rfl⟩ := withField_eq_ok h
  cases hmk
  exact ⟨_, rfl, by rw [beBytes_toNat_ofNat_beNat hv (beNat_lt_two_pow hv hw)]⟩

theorem beBytes_one_toNat (b : Byte) : beBytes 1 b.toNat = [b] := by simp [beBytes]

/-! ## The operands of the unit records -/

theorem operandsDec12f_beBytes (u : Sample12) : operandsDec12f (beBytes 2 u.toNat) = some (.dec12f u) := by
  have hlt : beNat (beBytes 2 u.toNat) < 2 ^ Config.modemBits := (beNat_beBytes ..).trans_lt ((Nat.mod_le _ _).trans_lt u.isLt)
  rw [operandsDec12f, if_pos hlt, ofNat_beNat_beBytes u (by decide)]

theorem operandsDec12f_eq_some {v : List Byte} {i : Instr} (hv : v.length = 2) (h : operandsDec12f v = some i) :
    ∃ u : Sample12, .dec12f u = i ∧ beBytes 2 u.toNat = v := by
  unfold operandsDec12f at h
  split at h <;> cases h
  next hlt => exact ⟨_, rfl, beBytes_toNat_ofNat_beNat hv hlt⟩

/-- PACK12's operand bits are exactly its 17 bytes. -/
theorem two_pow_packOperandBits : 2 ^ packOperandBits = 256 ^ 17 := by decide

theorem intOfNat_beNat_beBytes {a : Int} (h : packOperandOk a = true) :
    intOfNat packOperandBits (beNat (beBytes 17 (natOfInt packOperandBits a))) = a := by
  rw [beNat_beBytes, Nat.mod_eq_of_lt (two_pow_packOperandBits ▸ natOfInt_lt packOperandBits a), intOfNat_natOfInt a h]

theorem packOperandOk_intOfNat_beNat {v : List Byte} (hv : v.length = 17) :
    packOperandOk (intOfNat packOperandBits (beNat v)) = true ∧
      beBytes 17 (natOfInt packOperandBits (intOfNat packOperandBits (beNat v))) = v := by
  obtain ⟨hback, hok⟩ := natOfInt_intOfNat (beNat v) (beNat_lt_two_pow hv two_pow_packOperandBits.ge)
  exact ⟨hok, by rw [hback, ← hv, beBytes_beNat]⟩

theorem operandsPack12_beBytes {a b : Int} (ha : packOperandOk a = true) (hb : packOperandOk b = true) :
    operandsPack12 (beBytes 17 (natOfInt packOperandBits a) ++ beBytes 17 (natOfInt packOperandBits b)) = some (.pack12 a b) := by
  rw [operandsPack12, List.take_left' (beBytes_length ..), List.drop_left' (beBytes_length ..), intOfNat_beNat_beBytes ha,
    intOfNat_beNat_beBytes hb]

theorem operandsPack12_eq_some {v : List Byte} {i : Instr} (hv : v.length = 34) (h : operandsPack12 v = some i) :
    ∃ a b, .pack12 a b = i ∧ packOperandOk a = true ∧ packOperandOk b = true ∧
      beBytes 17 (natOfInt packOperandBits a) ++ beBytes 17 (natOfInt packOperandBits b) = v := by
  cases h
  obtain ⟨ha, hbytesA⟩ := packOperandOk_intOfNat_beNat (v := v.take 17) (by simp [hv])
  obtain ⟨hb, hbytesB⟩ := packOperandOk_intOfNat_beNat (v := v.drop 17) (by simp [hv])
  exact ⟨_, _, rfl, ha, hb, by rw [hbytesA, hbytesB, List.take_append_drop]⟩

theorem decodeFilterId_eq_some {n : Nat} {f : FilterId} (h : decodeFilterId n = some f) : n = (filterIdByte f).toNat := by
  unfold decodeFilterId at h
  split_ifs at h with h0 h1 <;> cases h
  · exact h0
  · exact h1

theorem operandsBiquadStep_bytes (f : FilterId) (x : F32) :
    operandsBiquadStep (filterIdByte f :: beBytes Config.fpBytes x.toNat) = some (.biquadStep f x) := by
  have hx : BitVec.ofNat Config.fpBits (beNat (beBytes Config.fpBytes x.toNat)) = x := ofNat_beNat_beBytes x (by decide)
  cases f <;> exact congrArg (fun y => some (Instr.biquadStep _ y)) hx

theorem operandsBiquadStep_eq_some {v : List Byte} {i : Instr} (hv : v.length = 1 + Config.fpBytes)
    (h : operandsBiquadStep v = some i) :
    ∃ f x, .biquadStep f x = i ∧ filterIdByte f :: beBytes Config.fpBytes x.toNat = v := by
  obtain ⟨b, field, rfl, hfield⟩ := List.length_eq_succ_iff.mp (hv.trans (Nat.add_comm ..))
  unfold operandsBiquadStep at h
  split at h <;> cases h
  next f hf =>
    have hb : filterIdByte f = b := BitVec.eq_of_toNat_eq (by simpa [beNat] using (decodeFilterId_eq_some hf).symm)
    exact ⟨f, _, rfl, congrArg₂ _ hb (beBytes_toNat_ofNat_beNat hfield (beNat_lt_two_pow hfield (by decide)))⟩

/-! ## The host port -/

/-- A host command's record is read back field by field, whatever follows it (R57). -/
theorem decodeHost_encode {t : Tags} {i : Instr} (hl : i.level = .host) (hw : i.wellFormed t = true) (rest : List Byte) :
    decodeHost (encode t i ++ rest) = .ok (i, rest) := by
  cases i with
  | m2n chunk =>
    cases chunk with
    | none => cases hw
    | some v => exact withCounted_counted codeM2n rest (fun chunk => .m2n (some chunk)) (of_decide_eq_true hw)
  | n2m capacity => exact withField_word codeN2m 2 capacity .n2m rest (by decide)
  | tick ms => exact withField_word codeTick 4 ms .tick rest (by decide)
  | enable flag =>
    rw [encode, ← beBytes_one_toNat]
    exact withField_word codeEnable 1 flag .enable rest (by decide)
  | _ => cases hl

/-- Whatever the host port takes is a host command's record: one case for each code. -/
theorem decodeHost_eq_ok {bs rest : List Byte} {i : Instr} (t : Tags) (h : decodeHost bs = .ok (i, rest)) :
    i.level = .host ∧ encode t i ++ rest = bs ∧ i.wellFormed t = true := by
  unfold decodeHost at h
  split at h
  next => cases h
  next c field =>
    obtain ⟨rfl, h⟩ | ⟨-, h⟩ := ite_eq_iff.mp h
    · obtain ⟨v, hv, rfl, rfl⟩ := withCounted_eq_ok h
      exact ⟨rfl, rfl, decide_eq_true hv⟩
    obtain ⟨rfl, h⟩ | ⟨-, h⟩ := ite_eq_iff.mp h
    · obtain ⟨capacity, rfl, rfl⟩ := withField_word_eq_ok h (by decide)
      exact ⟨rfl, rfl, rfl⟩
    obtain ⟨rfl, h⟩ | ⟨-, h⟩ := ite_eq_iff.mp h
    · obtain ⟨ms, rfl, rfl⟩ := withField_word_eq_ok h (by decide)
      exact ⟨rfl, rfl, rfl⟩
    obtain ⟨rfl, h⟩ | ⟨-, h⟩ := ite_eq_iff.mp h
    · obtain ⟨flag, rfl, rfl⟩ := withField_word_eq_ok h (by decide)
      rw [beBytes_one_toNat]
      exact ⟨rfl, rfl, rfl⟩
    cases h

/-- A byte that is no code of R56's host commands is no record. -/
theorem decodeHost_of_illegal {c : Byte} (rest : List Byte) (hm2n : c ≠ codeM2n) (hn2m : c ≠ codeN2m) (htick : c ≠ codeTick)
    (henable : c ≠ codeEnable) : decodeHost (c :: rest) = .error (.illegalCode c) := by
  rw [decodeHost, if_neg hm2n, if_neg hn2m, if_neg htick, if_neg henable]

/-! ## The unit port -/

/-- A unit record is read back field by field, whatever follows it (log 6). -/
theorem decodeUnit_encode {t : Tags} {i : Instr} (hl : i.level = .unit) (hw : i.wellFormed t = true) (rest : List Byte) :
    decodeUnit (encode t i ++ rest) = .ok (i, rest) := by
  cases i with
  | accAppend v => exact withCounted_counted codeAccAppend rest .accAppend (of_decide_eq_true hw)
  | accSize => rfl
  | accDrain n =>
    have hn : beNat (beBytes 4 n) = n := (beNat_beBytes 4 n).trans (Nat.mod_eq_of_lt (of_decide_eq_true hw))
    exact withField_append codeAccDrain (f := fun v => some (.accDrain (beNat v))) rest (beBytes_length 4 n) (by rw [hn])
  | unpack12 t0 t1 t2 => rfl
  | pack12 a b =>
    obtain ⟨ha, hb⟩ := Bool.and_eq_true_iff.mp hw
    exact withField_append codePack12 rest (by rw [List.length_append, beBytes_length, beBytes_length])
      (operandsPack12_beBytes ha hb)
  | dec12f u => exact withField_append codeDec12f rest (beBytes_length ..) (operandsDec12f_beBytes u)
  | enc16 f => exact withField_word codeEnc16 Config.fpBytes f .enc16 rest (by decide)
  | dec16f u => exact withField_word codeDec16f 2 u .dec16f rest (by decide)
  | enc12 f => exact withField_word codeEnc12 Config.fpBytes f .enc12 rest (by decide)
  | des16 p0 p1 => rfl
  | ser16 u => exact withField_word codeSer16 2 u .ser16 rest (by decide)
  | biquadStep f x =>
    exact withField_append codeBiquadStep rest (by rw [List.length_cons, beBytes_length]) (operandsBiquadStep_bytes f x)
  | _ => cases hl

/-- Whatever the unit port takes is a unit record: one case for each code, in the order of R56. -/
theorem decodeUnit_eq_ok {bs rest : List Byte} {i : Instr} (t : Tags) (h : decodeUnit bs = .ok (i, rest)) :
    i.level = .unit ∧ encode t i ++ rest = bs ∧ i.wellFormed t = true := by
  unfold decodeUnit at h
  split at h
  next => cases h
  next c field =>
    obtain ⟨rfl, h⟩ | ⟨-, h⟩ := ite_eq_iff.mp h
    · obtain ⟨v, hv, rfl, rfl⟩ := withCounted_eq_ok h
      exact ⟨rfl, rfl, decide_eq_true hv⟩
    obtain ⟨rfl, h⟩ | ⟨-, h⟩ := ite_eq_iff.mp h
    · cases h
      exact ⟨rfl, rfl, rfl⟩
    obtain ⟨rfl, h⟩ | ⟨-, h⟩ := ite_eq_iff.mp h
    · obtain ⟨v, hv, hi, rfl⟩ := withField_eq_ok h
      cases hi
      exact ⟨rfl, by rw [encode, ← hv, beBytes_beNat]; rfl, decide_eq_true (beNat_lt_two_pow hv (by decide))⟩
    obtain ⟨rfl, h⟩ | ⟨-, h⟩ := ite_eq_iff.mp h
    · obtain ⟨v, hv, hi, rfl⟩ := withField_eq_ok h
      obtain ⟨t0, t1, t2, rfl⟩ := List.length_eq_three.mp hv
      cases hi
      exact ⟨rfl, rfl, rfl⟩
    obtain ⟨rfl, h⟩ | ⟨-, h⟩ := ite_eq_iff.mp h
    · obtain ⟨v, hv, hi, rfl⟩ := withField_eq_ok h
      obtain ⟨a, b, rfl, ha, hb, rfl⟩ := operandsPack12_eq_some hv hi
      exact ⟨rfl, rfl, Bool.and_eq_true_iff.mpr ⟨ha, hb⟩⟩
    obtain ⟨rfl, h⟩ | ⟨-, h⟩ := ite_eq_iff.mp h
    · obtain ⟨v, hv, hi, rfl⟩ := withField_eq_ok h
      obtain ⟨u, rfl, rfl⟩ := operandsDec12f_eq_some hv hi
      exact ⟨rfl, rfl, rfl⟩
    obtain ⟨rfl, h⟩ | ⟨-, h⟩ := ite_eq_iff.mp h
    · obtain ⟨f, rfl, rfl⟩ := withField_word_eq_ok h (by decide)
      exact ⟨rfl, rfl, rfl⟩
    obtain ⟨rfl, h⟩ | ⟨-, h⟩ := ite_eq_iff.mp h
    · obtain ⟨u, rfl, rfl⟩ := withField_word_eq_ok h (by decide)
      exact ⟨rfl, rfl, rfl⟩
    obtain ⟨rfl, h⟩ | ⟨-, h⟩ := ite_eq_iff.mp h
    · obtain ⟨f, rfl, rfl⟩ := withField_word_eq_ok h (by decide)
      exact ⟨rfl, rfl, rfl⟩
    obtain ⟨rfl, h⟩ | ⟨-, h⟩ := ite_eq_iff.mp h
    · obtain ⟨v, hv, hi, rfl⟩ := withField_eq_ok h
      obtain ⟨p0, p1, rfl⟩ := List.length_eq_two.mp hv
      cases hi
      exact ⟨rfl, rfl, rfl⟩
    obtain ⟨rfl, h⟩ | ⟨-, h⟩ := ite_eq_iff.mp h
    · obtain ⟨u, rfl, rfl⟩ := withField_word_eq_ok h (by decide)
      exact ⟨rfl, rfl, rfl⟩
    obtain ⟨rfl, h⟩ | ⟨-, h⟩ := ite_eq_iff.mp h
    · obtain ⟨v, hv, hi, rfl⟩ := withField_eq_ok h
      obtain ⟨f, x, rfl, rfl⟩ := operandsBiquadStep_eq_some hv hi
      exact ⟨rfl, rfl, rfl⟩
    cases h

end Sys2Proof
end

section
/-! PROOFS. The tag classes, and the chunk that each arm of M2N is (R53, R54). -/

namespace Sys2Proof

open Machine

/-- The tags of a class: one constant's value, or none of the three (R54). -/
def TagClass.Holds (t : Tags) (tag : Byte) : TagClass → Prop
  | .header => tag = t.header
  | .eot => tag = t.eot
  | .data => tag = t.data
  | .other => tag ≠ t.header ∧ tag ≠ t.eot ∧ tag ≠ t.data

theorem classifyTag_holds (t : Tags) (tag : Byte) : (classifyTag t tag).Holds t tag := by
  unfold classifyTag
  split_ifs with hheader heot hdata
  exacts [hheader, heot, hdata, ⟨hheader, heot, hdata⟩]

theorem classifyTag_of_other {t : Tags} {tag : Byte} (hheader : tag ≠ t.header) (heot : tag ≠ t.eot)
    (hdata : tag ≠ t.data) :
    classifyTag t tag = .other := by
  rw [classifyTag, if_neg hheader, if_neg heot, if_neg hdata]

/-- With distinct constants the order of the comparisons does not matter. -/
theorem classifyTag_of_holds {t : Tags} {tag : Byte} {a : TagClass} (h : t.legal = true) (ha : a.Holds t tag) :
    classifyTag t tag = a := by
  have heh : t.eot ≠ t.header := mt (tagValue_injective (a := .eot) (b := .header) h) nofun
  have hdh : t.data ≠ t.header := mt (tagValue_injective (a := .data) (b := .header) h) nofun
  have hde : t.data ≠ t.eot := mt (tagValue_injective (a := .data) (b := .eot) h) nofun
  cases a with
  | header => exact if_pos ha
  | eot =>
    cases ha
    rw [classifyTag, if_neg heh, if_pos rfl]
  | data =>
    cases ha
    rw [classifyTag, if_neg hdh, if_neg hde, if_pos rfl]
  | other =>
    obtain ⟨hheader, heot, hdata⟩ := ha
    exact classifyTag_of_other hheader heot hdata

theorem classifyTag_eq_iff {t : Tags} (h : t.legal = true) (tag : Byte) (a : TagClass) :
    classifyTag t tag = a ↔ a.Holds t tag :=
  ⟨fun heq => heq ▸ classifyTag_holds t tag, classifyTag_of_holds h⟩

theorem not_recognised_iff {t : Tags} {tag : Byte} : t.recognises tag = false ↔ TagClass.other.Holds t tag := by
  simp [Tags.recognises, TagClass.Holds, and_assoc]

/-! ## Chunks -/

theorem decodeChunk_encode {t : Tags} {i : Instr} (h : t.legal = true) (hl : i.level = .arm) (hw : i.wellFormed t = true) :
    decodeChunk t (encode t i) = .ok (i, []) := by
  cases i with
  | m2nHeader payload => simp only [encode, decodeChunk, armOf, classifyTag_of_holds (a := .header) h rfl]
  | m2nData payload => simp only [encode, decodeChunk, armOf, classifyTag_of_holds (a := .data) h rfl]
  | m2nEot payload => simp only [encode, decodeChunk, armOf, classifyTag_of_holds (a := .eot) h rfl]
  | m2nOther tag payload =>
    have htag : t.recognises tag = false := by simpa using (Bool.and_eq_true_iff.mp hw).1
    simp only [encode, decodeChunk, armOf, classifyTag_of_holds h (not_recognised_iff.mp htag)]
  | _ => cases hl

theorem armOf_level (t : Tags) (tag : Byte) (payload : List Byte) : (armOf t tag payload).level = .arm := by
  unfold armOf
  cases classifyTag t tag <;> rfl

theorem encode_armOf (t : Tags) (tag : Byte) (payload : List Byte) : encode t (armOf t tag payload) = tag :: payload := by
  have htag := classifyTag_holds t tag
  unfold armOf
  generalize classifyTag t tag = a at htag ⊢
  cases a with
  | header => cases htag; rfl
  | eot => cases htag; rfl
  | data => cases htag; rfl
  | other => rfl

theorem decodeChunk_eq_ok {t : Tags} {bs rest : List Byte} {i : Instr} (h : decodeChunk t bs = .ok (i, rest)) :
    i.level = .arm ∧ encode t i ++ rest = bs := by
  unfold decodeChunk at h
  split at h <;> cases h
  next tag payload => exact ⟨armOf_level t tag payload, by rw [encode_armOf, List.append_nil]⟩

end Sys2Proof
end

section
/-! PROOFS. What an illegal record, a chunk of no arm and a read do in a block that runs (R59, R122, R125). -/

namespace Sys2Proof.Machine

/-- In a block that runs the record is a fault like any other (R59, R146). -/
theorem illegalCommand_of_running {s : State} (hf : s.faulted = false) (c : Byte) :
    FaultEntered 0x08 (.illegalCommand c) s (s.illegalCommand c) ∧
      (s.illegalCommand c).trace = s.trace ++ [.illegalRecord c (.fault (.illegalCommand c))] := by
  rw [State.illegalCommand, if_neg (by simp [hf])]
  exact ⟨takeFault_entered (.illegalCommand c) s, rfl⟩

theorem illegalCommand_of_faulted {s : State} (hf : s.faulted = true) (c : Byte) :
    s.illegalCommand c = s.conclude .refused [.illegalRecord c .refused] := by
  rw [State.illegalCommand, if_pos hf]
  rfl

theorem step_of_illegalRecord {s : State} {c : Byte} {rest : List Byte} (hr : s.resetReq = false) (hu : s.unitStream = [])
    (hs : s.stream = c :: rest) (hd : decodeHost (c :: rest) = .error (.illegalCode c)) :
    step s = .next ({ s with stream := rest }.illegalCommand c) := by
  simp only [step, fetch_of_host hr hu, fetchHost, hs, hd, List.drop_succ_cons, List.drop_zero]

theorem bodyM2n_of_other {s : State} {tag : Byte} (payload : List Byte) (h : classifyTag s.cfg.tags tag = .other) :
    bodyM2n (some (tag :: payload)) s = .ok (.flag false) s := by
  simp only [bodyM2n, dispatchTag, h, armOther]

/-- A read takes an answer; the parameters, the filters, the buffer and the trace are as before. -/
theorem ReadYields.keeps {s t : State} {rd : List Byte} (h : ReadYields s rd t) :
    t.cfg = s.cfg ∧ t.pre = s.pre ∧ t.buf = s.buf ∧ t.trace = s.trace := by
  obtain ⟨more, -, -, rfl⟩ | ⟨-, -, rfl⟩ := h <;> exact ⟨rfl, rfl, rfl, rfl⟩

/-- Packing `g` pairs completes: the packed bytes are three for each and stand at the front of the buffer (R125). -/
theorem receiveSamples_packed {buf rd out : List Byte} {capacity g : Nat} {s : State} {fs : List F32} {f : Filter}
    (hfs : filterRun s.cfg.fp s.pre ((pairSamples rd).map (decode16 s.cfg.fp)) = (fs, f))
    (hg : g = packCount (rd.length / 2) capacity s.cfg.outCapMax) (hout : packPairs s.cfg.fp (fs.take (2 * g)) = (out, none)) :
    receiveSamples buf capacity rd s =
      .ok (.count (3 * g) out) ((s.withFilter .pre f).withBuf (out ++ buf.drop (3 * g))) := by
  have hsamples : fs.length = rd.length / 2 := by
    have hrun := filterRun_length (fp := s.cfg.fp) ((pairSamples rd).map (decode16 s.cfg.fp)) s.pre
    rwa [hfs, List.length_map, pairSamples_length] at hrun
  have hbytes : out.length = 3 * g := by
    have hpairs := (packPairs_length (fp := s.cfg.fp) (fs.take (2 * g))).2 (by rw [hout])
    have hbound := (packCount_bounds (rd.length / 2) capacity s.cfg.outCapMax).2
    simp only [hout, List.length_take] at hpairs
    rw [← hg] at hbound
    omega
  subst hg
  simp only [receiveSamples, hfs, hsamples, Config.groupSamples, hout, Config.groupBytes, overwriteFront, hbytes]

/-- A read that yields nothing has no sample to filter and no pair to pack. -/
theorem receiveSamples_nil {buf : List Byte} {s : State} (capacity : Nat) (hbuf : s.buf = some buf) :
    receiveSamples buf capacity [] s = .ok (.count 0 []) s := by
  have hsame : (s.withFilter .pre s.pre).withBuf buf = s := by simp only [State.withFilter, State.withBuf, ← hbuf]
  have hnone := receiveSamples_packed (buf := buf) (capacity := capacity) (s := s) (rd := []) (g := 0) rfl
    (by simp [packCount]) rfl
  rwa [Nat.mul_zero, List.drop_zero, List.nil_append, hsame] at hnone

/-- The body of N2M when the read answers: an empty read needs no case of its own (R125). -/
theorem bodyN2m_of_read {s t : State} {c : BitVec 16} {rd buf : List Byte} (hbuf : s.buf = some buf) (hc : c ≠ 0)
    (hnet : s.netPresent = true) (hread : netRead s.cfg.netReadMax s = .ok rd t) (hkeeps : t.buf = some buf) :
    bodyN2m c s = receiveSamples buf c.toNat rd t := by
  simp only [bodyN2m, hbuf, if_neg hc, hnet, if_true, hread, andThen_ok]
  split
  next hnil => rw [hnil, receiveSamples_nil c.toNat hkeeps]
  next => rfl

end Sys2Proof.Machine
end

section
/-! PROOFS. The family 30_encoding.md. -/

open Sys2Proof Sys2Proof.Machine

/-- Settles O5: at each port every field is read back as it was written, and with distinct tags a chunk selects its own arm. -/
theorem decodeInvertsEncode : Obligations.DecodeInvertsEncode := by
  unfold Obligations.DecodeInvertsEncode
  intro t i rest ht hw
  refine ⟨fun hl => ?_, fun hl => decodeChunk_encode ht hl hw⟩
  cases hi : i.level with
  | host => exact decodeHost_encode hi hw rest
  | arm => exact absurd hi hl
  | unit => exact decodeUnit_encode hi hw rest

/-- Settles O6: whatever a decoder takes is the encoding of the operation that it answers. -/
theorem encodeInvertsDecode : Obligations.EncodeInvertsDecode := by
  unfold Obligations.EncodeInvertsDecode
  intro t l bs rest i _ h
  cases l with
  | host =>
    obtain ⟨hl, hbytes, hw⟩ := decodeHost_eq_ok t h
    exact ⟨hl, hbytes, fun _ => hw⟩
  | arm =>
    obtain ⟨hl, hbytes⟩ := decodeChunk_eq_ok h
    exact ⟨hl, hbytes, fun hne => absurd rfl hne⟩
  | unit =>
    obtain ⟨hl, hbytes, hw⟩ := decodeUnit_eq_ok t h
    exact ⟨hl, hbytes, fun _ => hw⟩

/-- Settles O7: with distinct constants a tag has exactly one class, and no constant is 0x7F. -/
theorem tagSelectsExactlyOneArm : Obligations.TagSelectsExactlyOneArm := by
  unfold Obligations.TagSelectsExactlyOneArm
  intro t tag ht
  have hclass := classifyTag_eq_iff ht tag
  have hunrecognised (a : TagName) : 0x7F ≠ tagValue t a := (tagValue_ne_unrecognised ht a).symm
  exact ⟨hclass .header, hclass .eot, hclass .data, hclass .other,
    classifyTag_of_other (hunrecognised .header) (hunrecognised .eot) (hunrecognised .data)⟩

/-- Settles O35: the read leaves what the pipeline uses, and packing that fails nowhere writes three bytes for each pair. -/
theorem n2mPacksTheLeadingPairs : Obligations.N2mPacksTheLeadingPairs := by
  unfold Obligations.N2mPacksTheLeadingPairs
  intro s t c rd buf out fs f g hf hbuf hc hnet hyields hfs hg hout
  obtain ⟨hcfg, hpre, hkeeps, htrace⟩ := hyields.keeps
  rw [← hcfg] at hg hout
  rw [← hcfg, ← hpre] at hfs
  have hbody := bodyN2m_of_read hbuf hc hnet (netRead_of_yields hyields) (hkeeps.trans hbuf)
  rw [receiveSamples_packed (s := t.logEvent _) hfs hg hout] at hbody
  refine (runCommand_ok hf hbody).trans ?_
  simp [State.report, State.yield, State.logEvent, State.withFilter, State.withBuf, htrace]

/-- Settles O3: no code matches, so the step is the block's answer to an illegal record. -/
theorem illegalRecordRaisesIllegalCommand : Obligations.IllegalRecordRaisesIllegalCommand := by
  unfold Obligations.IllegalRecordRaisesIllegalCommand
  intro s c rest hr hu hs h0 h1 h2 h3
  have hstep := step_of_illegalRecord hr hu hs (decodeHost_of_illegal rest h0 h1 h2 h3)
  exact ⟨fun hf => ⟨_, hstep, illegalCommand_of_running (s := { s with stream := rest }) hf c⟩,
    fun hf => hstep.trans (congrArg _ (illegalCommand_of_faulted (s := { s with stream := rest }) hf c))⟩

/-- Settles O4: the four command records are the encodings of their operations; the decoder runs on the three table words. -/
theorem writtenOutRecordsDecode : Obligations.WrittenOutRecordsDecode := by
  unfold Obligations.WrittenOutRecordsDecode
  have host (i : Instr) (hl : i.level = .host) (hw : i.wellFormed Config.defaultTags = true) :
      decodeHost (encode Config.defaultTags i) = .ok (i, []) := by simpa using decodeHost_encode hl hw []
  exact ⟨host (.m2n (some [0x00, 0xAA, 0xBB])) rfl rfl, host (.n2m 300) rfl rfl, host (.tick 20) rfl rfl,
    host (.enable 0) rfl rfl, rfl, rfl, rfl⟩

/-- Settles O22: the tag's class is OTHER, whose body answers false in the state it was given. -/
theorem unrecognisedTagReturnsFalse : Obligations.UnrecognisedTagReturnsFalse := by
  unfold Obligations.UnrecognisedTagReturnsFalse
  intro s tag payload hf hheader heot hdata
  have hother := classifyTag_of_other hheader heot hdata
  exact ⟨runCommand_ok hf (bodyM2n_of_other payload hother), runInner_ok hf rfl⟩

end

section
/-! PROOFS. The accumulator's units, and how an operation ends in a fault at whose raise the state is as before (R71 to R73, R146). -/

namespace Sys2Proof.Machine

/-! ## Ending in a fault -/

theorem endsInFault_of_runCommand {i : Instr} {body : State → Ran Result} {s : State} {x : Raise} (hi : i.level = .host)
    (hexec : exec i s = runCommand i body s) (hf : s.faulted = false) (hb : body s = .raised x s) :
    EndsInFault i (raiseCode x) x s := by
  rw [EndsInFault, hexec, if_pos hi]
  exact runCommand_raised_entered hf hb

theorem endsInFault_of_runInner {i : Instr} {body : State → Ran Result} {s : State} {x : Raise} (hi : i.level ≠ .host)
    (hexec : exec i s = runInner body s) (hf : s.faulted = false) (hb : body s = .raised x s) :
    EndsInFault i (raiseCode x) x s := by
  rw [EndsInFault, hexec, if_neg hi, List.append_nil]
  exact runInner_raised_entered hf hb

/-! ## ACC.APPEND -/

/-- A length is one the accumulator may have when it is within every finite depth: the spelling of the statements (R14). -/
theorem accFits_iff {depth : Option Nat} {n : Nat} : accFits depth n = true ↔ ∀ d, depth = some d → n ≤ d := by
  cases depth <;> simp [accFits]

theorem accFits_mono {depth : Option Nat} {m n : Nat} (hmn : m ≤ n) (h : accFits depth n = true) : accFits depth m = true :=
  accFits_iff.mpr fun d hd => hmn.trans (accFits_iff.mp h d hd)

theorem accFits_eq_false {depth : Option Nat} {d n : Nat} (hd : depth = some d) (hn : d < n) : accFits depth n = false := by
  simpa [hd, accFits] using hn

theorem accAppend_of_fits {bytes : List Byte} {s : State}
    (h : accFits s.cfg.accDepth (s.acc.length + bytes.length) = true) :
    accAppend bytes s = .ok () (s.withAcc (s.acc ++ bytes)) := by
  rw [accAppend, if_pos h]

theorem accAppend_of_not_fits {bytes : List Byte} {s : State}
    (h : accFits s.cfg.accDepth (s.acc.length + bytes.length) = false) :
    accAppend bytes s = .raised (.accOverflow (s.acc.length + bytes.length)) s := by
  simp [accAppend, h]

theorem exec_accAppend (bytes : List Byte) (s : State) :
    exec (.accAppend bytes) s = runInner (fun t => (accAppend bytes t).andThen fun _ u => .ok .done u) s := rfl

theorem exec_accAppend_of_fits {bytes : List Byte} {s : State} (hf : s.faulted = false)
    (h : accFits s.cfg.accDepth (s.acc.length + bytes.length) = true) :
    exec (.accAppend bytes) s = .next ((s.withAcc (s.acc ++ bytes)).yield .done) := by
  rw [exec_accAppend]
  exact runInner_ok hf (by rw [accAppend_of_fits h, andThen_ok])

/-! ## ACC.DRAIN -/

theorem exec_accDrain (n : Nat) (s : State) :
    exec (.accDrain n) s = runInner (fun t => (accDrain n t).andThen fun d u => .ok (.bytes d) u) s := rfl

theorem exec_accDrain_of_le {n : Nat} {s : State} (hf : s.faulted = false) (h : n ≤ s.acc.length) :
    exec (.accDrain n) s = .next ((s.withAcc (s.acc.drop n)).yield (.bytes (s.acc.take n))) := by
  rw [exec_accDrain]
  exact runInner_ok hf (by rw [accDrain_of_le h, andThen_ok])

theorem drainAll_cons_of_le {n : Nat} {ns : List Nat} {s : State} (h : n ≤ s.acc.length) :
    drainAll (n :: ns) s =
      (drainAll ns (s.withAcc (s.acc.drop n))).map fun r => (s.acc.take n ++ r.1, r.2) := by
  rw [drainAll, accDrain_of_le h]

/-- What one drain leaves in ACC is what the next ones drain, so their bytes join up (R74). -/
theorem drainAll_eq_drain_sum (ns : List Nat) (s : State) (h : ns.sum ≤ s.acc.length) :
    drainAll ns s = some (s.acc.take ns.sum, s.withAcc (s.acc.drop ns.sum)) := by
  induction ns generalizing s with
  | nil => rfl
  | cons n ns ih =>
    rw [List.sum_cons] at h
    have hrest : ns.sum ≤ (s.withAcc (s.acc.drop n)).acc.length := by
      rw [State.withAcc_acc, List.length_drop]
      omega
    rw [drainAll_cons_of_le (by omega), ih _ hrest, List.sum_cons, List.take_add, ← List.drop_drop]
    rfl

end Sys2Proof.Machine
end

section
/-! PROOFS. What a DATA command does with the bytes that are buffered, and why chunk boundaries do not matter to it (R75, R121). -/

namespace Sys2Proof.Machine

/-! ## The bytes that leave and the bytes that stay -/

/-- The whole groups that a DATA command drains from the buffered bytes under the cap (R121). -/
def drainedBytes (cap : Nat) (bytes : List Byte) : List Byte := bytes.take (drainedOf bytes.length cap)

/-- The bytes that it leaves buffered (R123). -/
def keptBytes (cap : Nat) (bytes : List Byte) : List Byte := bytes.drop (drainedOf bytes.length cap)

theorem drainedOf_le (total cap : Nat) : drainedOf total cap ≤ total := by
  unfold drainedOf
  omega

theorem drainedBytes_length (cap : Nat) (bytes : List Byte) :
    (drainedBytes cap bytes).length = 3 * (min bytes.length cap / 3) :=
  List.length_take_of_le (drainedOf_le _ cap)

theorem drainedBytes_append_keptBytes (cap : Nat) (bytes : List Byte) :
    drainedBytes cap bytes ++ keptBytes cap bytes = bytes :=
  List.take_append_drop _ bytes

theorem keptBytes_length (cap : Nat) (bytes : List Byte) :
    (keptBytes cap bytes).length = bytes.length - drainedOf bytes.length cap :=
  List.length_drop

/-- Within the cap, draining after each of two chunks drains as many bytes as draining once after both. -/
theorem drainedOf_append {cap : Nat} {bytes more : List Byte} (h : bytes.length + more.length ≤ cap) :
    drainedOf (bytes ++ more).length cap =
      (drainedBytes cap bytes).length + drainedOf (keptBytes cap bytes ++ more).length cap := by
  rw [drainedBytes_length, List.length_append, List.length_append, keptBytes_length]
  unfold drainedOf
  omega

theorem append_eq_drained_kept (cap : Nat) (bytes more : List Byte) :
    bytes ++ more = drainedBytes cap bytes ++ (keptBytes cap bytes ++ more) := by
  rw [← List.append_assoc, drainedBytes_append_keptBytes]

theorem drainedBytes_append {cap : Nat} {bytes more : List Byte} (h : bytes.length + more.length ≤ cap) :
    drainedBytes cap (bytes ++ more) = drainedBytes cap bytes ++ drainedBytes cap (keptBytes cap bytes ++ more) := by
  have hsplit := List.take_length_add_append (l₁ := drainedBytes cap bytes) (l₂ := keptBytes cap bytes ++ more)
    (drainedOf (keptBytes cap bytes ++ more).length cap)
  rwa [← append_eq_drained_kept, ← drainedOf_append h] at hsplit

theorem keptBytes_append {cap : Nat} {bytes more : List Byte} (h : bytes.length + more.length ≤ cap) :
    keptBytes cap (bytes ++ more) = keptBytes cap (keptBytes cap bytes ++ more) := by
  have hsplit := List.drop_length_add_append (l₁ := drainedBytes cap bytes) (l₂ := keptBytes cap bytes ++ more)
    (drainedOf (keptBytes cap bytes ++ more).length cap)
  rwa [← append_eq_drained_kept, ← drainedOf_append h] at hsplit

/-- A pipeline that completes on the groups of both chunks does so on those of the first and then, from the filter that
leaves, on the others; the network gets the same bytes. -/
theorem groupsToNet_drainedBytes_append {fp : Fp} {f f' : Filter} {cap : Nat} {bytes more out : List Byte}
    (hcap : bytes.length + more.length ≤ cap) (h : groupsToNet fp f (drainedBytes cap (bytes ++ more)) = .ok (out, f')) :
    ∃ out₁ f₁ out₂, groupsToNet fp f (drainedBytes cap bytes) = .ok (out₁, f₁) ∧
      groupsToNet fp f₁ (drainedBytes cap (keptBytes cap bytes ++ more)) = .ok (out₂, f') ∧ out = out₁ ++ out₂ := by
  rw [drainedBytes_append hcap, groupsToNet_append _ _ _ f (drainedBytes_length cap bytes)] at h
  obtain ⟨⟨out₁, f₁⟩, hfirst, h⟩ := except_bind_eq_ok h
  obtain ⟨⟨out₂, f₂⟩, hsecond, h⟩ := except_bind_eq_ok h
  cases h
  exact ⟨out₁, f₁, out₂, hfirst, hsecond, rfl⟩

/-! ## The bytes handed to the network -/

theorem writtenBytes_append (es fs : List Event) : writtenBytes (es ++ fs) = writtenBytes es ++ writtenBytes fs := by
  induction es with
  | nil => rfl
  | cons e es ih => cases e <;> simp [writtenBytes, ih]

theorem sendGroups_of_error {d : List Byte} {s : State} {bits : F32} (h : groupsToNet s.cfg.fp s.de d = .error bits) :
    sendGroups d s = .raised (.numericFault bits) s := by
  rw [sendGroups, h]

/-- A pipeline that completes leaves its filter in DE and hands its bytes to the network, whatever the answer. -/
theorem sendGroups_of_ok {d out : List Byte} {s : State} {f : Filter} (h : groupsToNet s.cfg.fp s.de d = .ok (out, f)) :
    ∃ r t, sendGroups d s = .ok r t ∧ t.acc = s.acc ∧ t.de = f ∧ writtenBytes t.trace = writtenBytes s.trace ++ out := by
  obtain ⟨draws, k, hwrite⟩ := netWriteData_spec out (s.withFilter .de f)
  refine ⟨.flag (netWriteData out (s.withFilter .de f)).1, (netWriteData out (s.withFilter .de f)).2, ?_, ?_⟩
  · rw [sendGroups, h]
  · rw [hwrite]
    exact ⟨rfl, rfl, by simp [writtenBytes_append, writtenBytes]⟩

/-! ## The arm DATA -/

/-- A completed DATA command with `bytes` buffered: the groups it drained went through the pipeline, which gave the network `out`
and left DE as it is in `t`; the rest stays. With no whole group drained that is nothing sent and DE as before. -/
structure DataDone (s t : State) (bytes out : List Byte) : Prop where
  acc : t.acc = keptBytes s.cfg.drainCap bytes
  pipeline : groupsToNet s.cfg.fp s.de (drainedBytes s.cfg.drainCap bytes) = .ok (out, t.de)
  written : writtenBytes t.trace = writtenBytes s.trace ++ out

theorem DataDone.report {s t : State} {bytes out : List Byte} (h : DataDone s t bytes out) (i : Instr) (r : Result) :
    DataDone s (t.report i r) bytes out :=
  ⟨h.acc, h.pipeline, by simpa [writtenBytes_append, writtenBytes] using h.written⟩

/-- What the arm DATA can do with the collaborator present: overflow, meet a value that is no number, or complete (R121). -/
inductive DataOutcome (payload : List Byte) (s : State) : Ran Result → Prop
  | overflows (hfits : accFits s.cfg.accDepth (s.acc.length + payload.length) = false) :
      DataOutcome payload s (.raised (.accOverflow (s.acc.length + payload.length)) s)
  | fails {bits : F32} (hfits : accFits s.cfg.accDepth (s.acc.length + payload.length) = true)
      (hpipeline : groupsToNet s.cfg.fp s.de (drainedBytes s.cfg.drainCap (s.acc ++ payload)) = .error bits) :
      DataOutcome payload s (.raised (.numericFault bits) (s.withAcc (keptBytes s.cfg.drainCap (s.acc ++ payload))))
  | completes {t : State} {r : Result} {out : List Byte}
      (hfits : accFits s.cfg.accDepth (s.acc.length + payload.length) = true) (done : DataDone s t (s.acc ++ payload) out) :
      DataOutcome payload s (.ok r t)

theorem armData_of_not_fits {payload : List Byte} {s : State} (hnet : s.netPresent = true)
    (hfits : accFits s.cfg.accDepth (s.acc.length + payload.length) = false) :
    armData payload s = .raised (.accOverflow (s.acc.length + payload.length)) s := by
  rw [armData, if_pos hnet, accAppend_of_not_fits hfits, andThen_raised]

/-- Appended bytes that fit are drained by whole groups, if there is one (R121). -/
theorem armData_of_fits {payload : List Byte} {s : State} (hnet : s.netPresent = true)
    (hfits : accFits s.cfg.accDepth (s.acc.length + payload.length) = true) :
    armData payload s =
      if drainedOf (s.acc ++ payload).length s.cfg.drainCap < 3 then .ok (.flag true) (s.withAcc (s.acc ++ payload))
      else sendGroups (drainedBytes s.cfg.drainCap (s.acc ++ payload))
        (s.withAcc (keptBytes s.cfg.drainCap (s.acc ++ payload))) := by
  have hdrain := drainAmount_eq (s.withAcc (s.acc ++ payload))
  rw [armData, if_pos hnet, accAppend_of_fits hfits, andThen_ok, accDrain_of_le hdrain.2, andThen_ok, hdrain.1]
  rfl

/-- With no whole group there is nothing to drain: what is buffered is kept and the pipeline has nothing to do. -/
theorem dataDone_of_no_group {s : State} {bytes : List Byte} (h : drainedOf bytes.length s.cfg.drainCap < 3) :
    DataDone s (s.withAcc bytes) bytes [] := by
  have hnone : drainedOf bytes.length s.cfg.drainCap = 0 := by
    unfold drainedOf at h ⊢
    omega
  refine ⟨?_, ?_, by simp⟩
  · rw [keptBytes, hnone, List.drop_zero, State.withAcc_acc]
  · rw [drainedBytes, hnone, List.take_zero, groupsToNet_nil, State.withAcc_de]

theorem armData_outcome {s : State} (payload : List Byte) (hnet : s.netPresent = true) :
    DataOutcome payload s (armData payload s) := by
  cases hfits : accFits s.cfg.accDepth (s.acc.length + payload.length) with
  | false =>
    rw [armData_of_not_fits hnet hfits]
    exact .overflows hfits
  | true =>
    rw [armData_of_fits hnet hfits]
    split
    next hnone => exact .completes hfits (dataDone_of_no_group hnone)
    next =>
      cases hpipeline : groupsToNet s.cfg.fp s.de (drainedBytes s.cfg.drainCap (s.acc ++ payload)) with
      | error bits =>
        rw [sendGroups_of_error (s := s.withAcc (keptBytes _ _)) hpipeline]
        exact .fails hfits hpipeline
      | ok g =>
        obtain ⟨r, t, hsend, hacc, hde, hwritten⟩ := sendGroups_of_ok (s := s.withAcc (keptBytes _ _)) hpipeline
        rw [hsend]
        exact .completes hfits ⟨hacc, hde ▸ hpipeline, hwritten⟩

/-! ## The command M2N with a DATA chunk -/

theorem bodyM2n_of_data {s : State} (payload : List Byte) (h : s.cfg.tags.legal = true) :
    bodyM2n (some (s.cfg.tags.data :: payload)) s = armData payload s := by
  simp only [bodyM2n, dispatchTag, classifyTag_of_holds (a := .data) h rfl]

/-- A DATA command that ends without a fault had room for its payload, and completed. -/
theorem exec_data_done {s t : State} {payload : List Byte} (hnet : s.netPresent = true) (htags : s.cfg.tags.legal = true)
    (h : exec (.m2n (some (s.cfg.tags.data :: payload))) s = .next t) (ht : t.faulted = false) :
    accFits s.cfg.accDepth (s.acc.length + payload.length) = true ∧ ∃ out, DataDone s t (s.acc ++ payload) out := by
  obtain ⟨-, r, u, hbody, rfl⟩ := runCommand_next_running h ht
  have outcome := armData_outcome payload hnet
  rw [← bodyM2n_of_data payload htags, hbody] at outcome
  cases outcome with
  | completes hfits done => exact ⟨hfits, _, done.report _ r⟩

/-- A DATA command with room for its payload and a pipeline that completes ends without a fault. -/
theorem exec_data_completes {s : State} {payload out : List Byte} {f : Filter} (hf : s.faulted = false)
    (hnet : s.netPresent = true) (htags : s.cfg.tags.legal = true)
    (hfits : accFits s.cfg.accDepth (s.acc.length + payload.length) = true)
    (hpipeline : groupsToNet s.cfg.fp s.de (drainedBytes s.cfg.drainCap (s.acc ++ payload)) = .ok (out, f)) :
    ∃ t, exec (.m2n (some (s.cfg.tags.data :: payload))) s = .next t ∧ BodyFrame s t ∧
      DataDone s t (s.acc ++ payload) out ∧ t.de = f := by
  have hbody := bodyM2n_of_data payload htags
  have frame := armData_frame payload s
  have outcome := armData_outcome payload hnet
  generalize armData payload s = m at hbody frame outcome
  cases outcome with
  | overflows h => simp [hfits] at h
  | fails _ h => simp [hpipeline] at h
  | @completes t r _ _ done =>
    obtain ⟨rfl, rfl⟩ : _ = out ∧ t.de = f := by simpa [hpipeline] using done.pipeline.symm
    exact ⟨_, runCommand_ok hf hbody, frame.trans ⟨rfl, rfl, rfl, rfl, rfl, rfl, id⟩, done.report _ r, rfl⟩

end Sys2Proof.Machine
end

section
/-! PROOFS. The family 40_byte_accumulator.md. -/

open Sys2Proof Sys2Proof.Machine

/-- Settles O26: the append is the arm's first act, and it raises with the state as it was. -/
theorem dataPastTheDepthRaisesAccOverflow : Obligations.DataPastTheDepthRaisesAccOverflow := by
  unfold Obligations.DataPastTheDepthRaisesAccOverflow
  intro s payload depth hf hnet htags hdepth hpast
  have harm := armData_of_not_fits hnet (accFits_eq_false hdepth hpast)
  have hbody := (bodyM2n_of_data payload htags).trans harm
  exact ⟨hbody, endsInFault_of_runCommand rfl rfl hf hbody, endsInFault_of_runInner (by simp [Instr.level]) rfl hf harm⟩

/-- Settles O33: the whole groups of the joined payload are those of the first chunk and then those of what it leaves and the
second, so the one pipeline run is the two in sequence. -/
theorem chunkBoundariesDoNotMatter : Obligations.ChunkBoundariesDoNotMatter := by
  unfold Obligations.ChunkBoundariesDoNotMatter
  intro s u p q hf hnet htags hcap hjoined hu
  obtain ⟨hfits, out, hacc, hpipeline, hwritten⟩ := exec_data_done hnet htags hjoined hu
  rw [← List.append_assoc] at hacc hpipeline
  have hboth : (s.acc ++ p).length + q.length ≤ s.cfg.drainCap := by rwa [List.length_append]
  obtain ⟨out₁, f₁, out₂, hfirst, hsecond, rfl⟩ := groupsToNet_drainedBytes_append hboth hpipeline
  have hroom₁ : accFits s.cfg.accDepth (s.acc.length + p.length) = true :=
    accFits_mono (by rw [List.length_append]; omega) hfits
  obtain ⟨t, ht, frame, done₁, rfl⟩ := exec_data_completes hf hnet htags hroom₁ hfirst
  have hroom₂ : accFits s.cfg.accDepth (t.acc.length + q.length) = true := by
    refine accFits_mono ?_ hfits
    rw [done₁.acc, keptBytes_length, List.length_append, List.length_append]
    omega
  rw [← done₁.acc, ← frame.cfg] at hsecond
  rw [← frame.cfg] at hroom₂ htags
  obtain ⟨v, hv, frame₂, done₂, hde⟩ :=
    exec_data_completes (frame.faulted.trans hf) (frame.net.trans hnet) htags hroom₂ hsecond
  rw [frame.cfg] at hv
  refine ⟨v, execAll_pair.mpr ⟨t, ht, hv⟩, (frame₂.faulted.trans frame.faulted).trans hf, ?_, hde, ?_⟩
  · rw [done₂.acc, hacc, keptBytes_append hboth, done₁.acc, frame.cfg]
  · rw [done₂.written, done₁.written, hwritten, List.append_assoc]

/-- Settles O44: what one drain leaves is what the next drains. -/
theorem drainingInAnyChunksIsDrainingAtOnce : Obligations.DrainingInAnyChunksIsDrainingAtOnce := by
  unfold Obligations.DrainingInAnyChunksIsDrainingAtOnce
  exact drainAll_eq_drain_sum

/-- Settles O41: a length fits exactly when it is within the depth, and without a depth every length does. -/
theorem appendAddsAtTheTail : Obligations.AppendAddsAtTheTail := by
  unfold Obligations.AppendAddsAtTheTail
  intro s bytes hf
  refine ⟨fun hfits => exec_accAppend_of_fits hf (accFits_iff.mpr hfits), fun depth hdepth hpast => ?_, fun hnone more => ?_⟩
  · have happend := accAppend_of_not_fits (accFits_eq_false hdepth hpast)
    exact ⟨happend, endsInFault_of_runInner (x := .accOverflow _) (by simp [Instr.level]) (exec_accAppend bytes s) hf
      (by rw [happend, andThen_raised])⟩
  · have hfits (n : Nat) : accFits s.cfg.accDepth n = true := by rw [hnone]; rfl
    have hfirst := exec_accAppend_of_fits (bytes := bytes) hf (hfits _)
    have hsecond := exec_accAppend_of_fits (bytes := more) (s := (s.withAcc (s.acc ++ bytes)).yield .done) hf (hfits _)
    rw [execAll_pair.mpr ⟨_, hfirst, hsecond⟩, exec_accAppend_of_fits hf (hfits _), State.yield_acc, State.withAcc_acc,
      List.append_assoc]
    rfl

/-- Settles O42: the unit's body only counts, and its record is its index. -/
theorem sizeReturnsTheByteCount : Obligations.SizeReturnsTheByteCount := by
  unfold Obligations.SizeReturnsTheByteCount
  exact ⟨fun s hf => runInner_ok hf rfl, fun _ => rfl⟩

/-- Settles O43: one case of the unit's comparison each. -/
theorem drainRemovesFromTheHead : Obligations.DrainRemovesFromTheHead := by
  unfold Obligations.DrainRemovesFromTheHead
  intro s n hf
  refine ⟨fun hle => exec_accDrain_of_le hf hle, fun hlt => ?_⟩
  have hdrain := accDrain_of_lt hlt
  exact ⟨hdrain, endsInFault_of_runInner (x := .accUnderflow n) (by simp [Instr.level]) (exec_accDrain n s) hf
    (by rw [hdrain, andThen_raised])⟩

end

section
/-! PROOFS. The value of a binary32 pattern as a rational number, and how far one rounding moves it (R7, D4). -/

namespace Sys2Proof.Machine

/-! ## Magnitudes -/

theorem le_infMag_of_magUnits {m : Nat} (h : magUnits m ≤ 2 ^ 277) : m ≤ infMag :=
  magUnits_strictMono.le_iff_le.mp (magUnits_infMag ▸ h)

theorem lt_infMag_of_magUnits {m : Nat} (h : magUnits m < 2 ^ 277) : m < infMag :=
  magUnits_strictMono.lt_iff_lt.mp (magUnits_infMag ▸ h)

/-- A significand of 24 bits, normal or not, is a magnitude at every exponent. -/
theorem exists_mag_of_significand {q : Nat} (s : Nat) (hq : q ≤ 2 ^ 24) : ∃ m, magUnits m = q * 2 ^ s := by
  induction s generalizing q with
  | zero => exact ⟨_, magUnits_exponent_significand hq (.inl rfl)⟩
  | succ s ih =>
    rcases Nat.lt_or_ge q (2 ^ 23) with hlow | hnormal
    · obtain ⟨m, hm⟩ := ih (q := 2 * q) (by omega)
      exact ⟨m, by rw [hm]; ring⟩
    · exact ⟨_, magUnits_exponent_significand hq (.inr hnormal)⟩

/-- Up to `2 ^ (k + 24)` the multiples of `2 ^ k` are magnitudes, so the nearest magnitude is within half of `2 ^ k`. -/
theorem NearestMag.error_le {n d m k : Nat} (h : NearestMag n d m) (hd : 0 < d) (hk : k ≤ 253)
    (hn : n ≤ 2 ^ 24 * (d * 2 ^ k)) : 2 * ((magUnits m * d : Int) - n).natAbs ≤ d * 2 ^ k := by
  have hstep : 0 < d * 2 ^ k := by positivity
  have hdiv := Nat.div_add_mod (2 * n + d * 2 ^ k) (2 * (d * 2 ^ k))
  have hmod := Nat.mod_lt (2 * n + d * 2 ^ k) (show 0 < 2 * (d * 2 ^ k) by omega)
  have hq : (2 * n + d * 2 ^ k) / (2 * (d * 2 ^ k)) ≤ 2 ^ 24 :=
    Nat.lt_succ_iff.mp ((Nat.div_lt_iff_lt_mul (by omega)).mpr (by omega))
  generalize (2 * n + d * 2 ^ k) / (2 * (d * 2 ^ k)) = q at hdiv hq
  obtain ⟨c, hc⟩ := exists_mag_of_significand k hq
  have hcd : magUnits c * d = d * 2 ^ k * q := by rw [hc]; ring
  have hcmax : c ≤ infMag := le_infMag_of_magUnits <| calc
    magUnits c = q * 2 ^ k := hc
    _ ≤ 2 ^ 24 * 2 ^ 253 := Nat.mul_le_mul hq (Nat.pow_le_pow_right (by omega) hk)
    _ = 2 ^ 277 := by rw [← pow_add]
  have hnear : ((magUnits m * d : Int) - n).natAbs ≤ ((magUnits c * d : Int) - n).natAbs := by
    rcases eq_or_ne c m with rfl | hne
    · exact le_rfl
    · have := h.2 c hcmax hne
      omega
  have hgrid : 2 * ((magUnits c * d : Int) - n).natAbs ≤ d * 2 ^ k := by
    rw [← Nat.cast_mul, hcd]
    rw [Nat.mul_assoc] at hdiv
    omega
  omega

/-- The same of a fraction whose value is at most `2 ^ k`, which is `2 ^ (k + 149)` units. -/
theorem NearestMag.close {n d m k : Nat} (h : NearestMag n d m) (hd : 0 < d) (hk : k ≤ 100)
    (hn : (n / d : ℚ) ≤ 2 ^ k * 2 ^ 149) : |(magUnits m : ℚ) - n / d| ≤ 2 ^ k * 2 ^ 124 := by
  have hdq : (0 : ℚ) < d := by exact_mod_cast hd
  have hsize : (n : ℚ) ≤ 2 ^ 24 * (d * 2 ^ (k + 125)) := calc
    (n : ℚ) ≤ 2 ^ k * 2 ^ 149 * d := (div_le_iff₀ hdq).mp hn
    _ = 2 ^ 24 * (d * 2 ^ (k + 125)) := by ring
  have herror := h.error_le (k := k + 125) hd (by omega) (by exact_mod_cast hsize)
  have hcast : 2 * |(magUnits m * d - n : ℚ)| ≤ d * 2 ^ (k + 125) := by
    rw [← Int.ofNat_le] at herror
    push_cast at herror
    exact_mod_cast herror
  rw [sub_div' hdq.ne', abs_div, abs_of_pos hdq, div_le_iff₀ hdq]
  rw [pow_add] at hcast
  linarith

/-! ## Values -/

/-- The value of a finite pattern. -/
def fVal (x : Binary32) : ℚ := fUnits x / 2 ^ 149

theorem fVal_mul_units (x : Binary32) : fVal x * 2 ^ 149 = fUnits x := div_mul_cancel₀ _ (by positivity)

theorem fIsZero_eq_false_of_fVal {x : Binary32} (h : fVal x ≠ 0) : fIsZero x = false := by
  refine decide_eq_false fun hzero => h ?_
  rw [fVal, fUnits, hzero, magUnits_zero]
  simp

/-- The factor of a sign. -/
def signFactor (neg : Bool) : ℚ := if neg then -1 else 1

theorem abs_signFactor (neg : Bool) : |signFactor neg| = 1 := by cases neg <;> simp [signFactor]

theorem signFactor_bne (a b : Bool) : signFactor (a != b) = signFactor a * signFactor b := by
  cases a <;> cases b <;> simp [signFactor]

theorem div_signFactor (v : ℚ) (neg : Bool) : v / signFactor neg = v * signFactor neg := by
  cases neg <;> simp [signFactor, div_neg]

theorem fUnits_eq_signFactor (x : Binary32) : (fUnits x : ℚ) = signFactor (fSign x) * magUnits (fMag x) := by
  cases h : fSign x <;> simp [fUnits, signFactor, h]

/-- `x` is the rounding of `v`: the magnitude nearest to that of `v`, which is `n / d` units, with its sign. -/
def IsRounding (v : ℚ) (x : Binary32) : Prop :=
  ∃ n d : Nat, 0 < d ∧ NearestMag n d (fMag x) ∧ v * 2 ^ 149 = signFactor (fSign x) * (n / d)

theorem abs_scale : |(2 : ℚ) ^ 149| = 2 ^ 149 := abs_of_pos (by positivity)

theorem abs_mul_units {v w : ℚ} {neg : Bool} (hw : 0 ≤ w) (h : v * 2 ^ 149 = signFactor neg * w) : |v| * 2 ^ 149 = w := by
  rw [← abs_scale, ← abs_mul, h, abs_mul, abs_signFactor, one_mul, abs_of_nonneg hw]

/-- Up to `2 ^ k` a rounding moves a value by at most `2 ^ k / 2 ^ 25`, and cannot overflow. -/
theorem IsRounding.close {v : ℚ} {x : Binary32} {k : Nat} (h : IsRounding v x) (hk : k ≤ 100) (hv : |v| ≤ 2 ^ k) :
    fIsFinite x = true ∧ |fVal x - v| ≤ 2 ^ k / 2 ^ 25 := by
  obtain ⟨n, d, hd, hnear, hexact⟩ := h
  have hsize : (n / d : ℚ) ≤ 2 ^ k * 2 ^ 149 := by
    rw [← abs_mul_units (by positivity) hexact]
    gcongr
  have hdist := hnear.close hd hk hsize
  constructor
  · have hpow : (2 : ℚ) ^ k ≤ 2 ^ 100 := pow_le_pow_right₀ (by norm_num) hk
    have hmag : (magUnits (fMag x) : ℚ) ≤ 2 ^ 250 := by linarith [(abs_le.mp hdist).2]
    have hmag' : magUnits (fMag x) ≤ 2 ^ 250 := by exact_mod_cast hmag
    exact decide_eq_true (lt_infMag_of_magUnits (hmag'.trans_lt (pow_lt_pow_right₀ one_lt_two (by decide : 250 < 277))))
  · have hval : fVal x - v = signFactor (fSign x) * (magUnits (fMag x) - n / d) / 2 ^ 149 := by
      rw [eq_div_iff (by positivity), sub_mul, hexact, fVal_mul_units, fUnits_eq_signFactor, mul_sub]
    rw [hval, abs_div, abs_mul, abs_signFactor, one_mul, abs_scale, div_le_iff₀ (by positivity)]
    linarith

/-- A value that 24 bits spell is not moved. -/
theorem IsRounding.exact {v : ℚ} {x : Binary32} {z : Int} {e : Nat} (h : IsRounding v x) (hz : z.natAbs ≤ 2 ^ 24)
    (he : e ≤ 252) (hv : v * 2 ^ 149 = z * 2 ^ e) : fIsFinite x = true ∧ fVal x = v := by
  obtain ⟨n, d, hd, hnear, hexact⟩ := h
  obtain ⟨m, hm⟩ := exists_mag_of_significand e hz
  have hmax : m < infMag := lt_infMag_of_magUnits <| calc
    magUnits m = z.natAbs * 2 ^ e := hm
    _ ≤ 2 ^ 24 * 2 ^ 252 := Nat.mul_le_mul hz (Nat.pow_le_pow_right (by omega) he)
    _ < 2 ^ 277 := by rw [← pow_add]; exact pow_lt_pow_right₀ one_lt_two (by decide : 24 + 252 < 277)
  have hdq : (0 : ℚ) < d := by exact_mod_cast hd
  have hunits : (magUnits m : ℚ) = n / d := calc
    (magUnits m : ℚ) = |v * 2 ^ 149| := by rw [hm, hv, abs_mul, abs_of_pos (show (0 : ℚ) < 2 ^ e by positivity)]; simp
    _ = |v| * 2 ^ 149 := by rw [abs_mul, abs_scale]
    _ = n / d := abs_mul_units (by positivity) hexact
  have hmag : fMag x = m := hnear.eq_of_magUnits hd hmax.le (by exact_mod_cast (eq_div_iff hdq.ne').mp hunits)
  refine ⟨decide_eq_true (hmag ▸ hmax), ?_⟩
  rw [fVal, fUnits_eq_signFactor, hmag, hunits, ← hexact, mul_div_cancel_right₀ _ (by positivity)]

/-! ## The operations -/

theorem fVal_fNeg (x : Binary32) : fVal (fNeg x) = -fVal x := by
  rw [fVal, fUnits_fNeg, Int.cast_neg, neg_div, fVal]

theorem IsRoundedSum.isRounding {a b x : Binary32} (h : IsRoundedSum a b x) : IsRounding (fVal a + fVal b) x := by
  obtain ⟨hnear, hsign, -⟩ := h
  refine ⟨_, 1, one_pos, hnear, ?_⟩
  have hsum : (fVal a + fVal b) * 2 ^ 149 = ((fUnits a + fUnits b : Int) : ℚ) := by
    rw [fVal, fVal, ← add_div, div_mul_cancel₀ _ (by positivity), Int.cast_add]
  rw [hsum, Nat.cast_one, div_one]
  generalize fUnits a + fUnits b = w at hsign
  rcases lt_trichotomy w 0 with hneg | rfl | hpos
  · rw [hsign hneg.ne, decide_eq_true hneg, signFactor, if_pos rfl, Nat.cast_natAbs, abs_of_neg hneg]
    simp
  · simp
  · rw [hsign hpos.ne', decide_eq_false hpos.not_gt, signFactor, if_neg (by simp), Nat.cast_natAbs, abs_of_pos hpos,
      one_mul]

theorem fadd_isRounding {a b : Binary32} (ha : fIsFinite a = true) (hb : fIsFinite b = true) :
    IsRounding (fVal a + fVal b) (fadd a b) :=
  (fadd_isRounded ha hb).isRounding

theorem fsub_isRounding {a b : Binary32} (ha : fIsFinite a = true) (hb : fIsFinite b = true) :
    IsRounding (fVal a - fVal b) (fsub a b) := by
  rw [sub_eq_add_neg, ← fVal_fNeg]
  exact (fsub_isRounded ha hb).isRounding

theorem fmul_isRounding {a b : Binary32} (ha : fIsFinite a = true) (hb : fIsFinite b = true) :
    IsRounding (fVal a * fVal b) (fmul a b) := by
  obtain ⟨hnear, hsign⟩ := fmul_isRounded ha hb
  refine ⟨_, _, by positivity, hnear, ?_⟩
  rw [hsign, signFactor_bne, fVal, fVal, fUnits_eq_signFactor, fUnits_eq_signFactor]
  push_cast
  ring

theorem fdiv_isRounding {a b : Binary32} (ha : fIsFinite a = true) (hb : fIsFinite b = true) (h0 : fIsZero b = false) :
    IsRounding (fVal a / fVal b) (fdiv a b) := by
  obtain ⟨hnear, hsign⟩ := fdiv_isRounded ha hb h0
  refine ⟨_, _, magUnits_pos (of_decide_eq_false h0), hnear, ?_⟩
  rw [hsign, signFactor_bne, fVal, fVal, div_div_div_cancel_right₀ (by positivity), fUnits_eq_signFactor,
    fUnits_eq_signFactor, mul_div_mul_comm, div_signFactor]
  push_cast
  ring

theorem i2f_finite_value {n : Int} (hn : n.natAbs ≤ 2 ^ 24) : fIsFinite (i2f n) = true ∧ fVal (i2f n) = n := by
  obtain ⟨hfinite, hunits⟩ := i2f_exact hn
  refine ⟨hfinite, ?_⟩
  rw [fVal, hunits]
  push_cast
  exact mul_div_cancel_right₀ _ (by positivity)

end Sys2Proof.Machine
end

section
/-! PROOFS. The conversions of the codec in binary32: what DEC12F and DEC16F give, and which integer an encode truncates to
(R84, R85, R89, R90). -/

namespace Sys2Proof.Machine

/-! ## The literals -/

theorem fOne_finite : fIsFinite fOne = true := by decide

theorem fHalf_finite : fIsFinite fHalf = true := by decide

theorem fVal_fOne : fVal fOne = 1 := by
  rw [fVal, show fUnits fOne = 2 ^ 149 by decide]
  norm_num

theorem fVal_fHalf : fVal fHalf = 1 / 2 := by
  rw [fVal, show fUnits fHalf = 2 ^ 148 by decide]
  norm_num

/-! ## Decoding -/

/-- Both operations of DEC12F are exact: 24 bits hold the difference, and its quotient by a power of two. -/
theorem decode12_exact (u : Sample12) :
    fIsFinite (decode12 .binary32 u) = true ∧ fVal (decode12 .binary32 u) = (u.toNat - 2048) / 2048 := by
  have hu : u.toNat < 4096 := u.isLt
  obtain ⟨hcode, hcodeVal⟩ := i2f_finite_value (n := u.toNat) (by omega)
  obtain ⟨hmid, hmidVal⟩ := i2f_finite_value (n := 2048) (by decide)
  have hdiff := fsub_isRounding hcode hmid
  rw [hcodeVal, hmidVal] at hdiff
  obtain ⟨hdiffFinite, hdiffVal⟩ := hdiff.exact (z := u.toNat - 2048) (e := 149) (by omega) (by decide) (by push_cast; rfl)
  have hquot := fdiv_isRounding hdiffFinite hmid (fIsZero_eq_false_of_fVal (by rw [hmidVal]; norm_num))
  rw [hdiffVal, hmidVal] at hquot
  have hexact := hquot.exact (z := u.toNat - 2048) (e := 138) (by omega) (by decide) (by push_cast; ring)
  simpa [decode12, Config.mid12] using hexact

theorem decode12_units (u : Sample12) : fUnits (decode12 .binary32 u) = ((u.toNat : Int) - 2048) * 2 ^ 138 := by
  have hunits := fVal_mul_units (decode12 .binary32 u)
  rw [(decode12_exact u).2] at hunits
  have hcast : (fUnits (decode12 .binary32 u) : ℚ) = (u.toNat - 2048) * 2 ^ 138 := by rw [← hunits]; ring
  exact_mod_cast hcast

/-- The quotient and the difference of DEC16F are each off by at most `2 ^ -23`. -/
theorem decode16_close (u : Sample16) :
    fIsFinite (decode16 .binary32 u) = true ∧ |fVal (decode16 .binary32 u) + 1 - u.toNat / 32767| ≤ 1 / 2 ^ 22 := by
  have hlt : u.toNat < 65536 := u.isLt
  have hu : (u.toNat : ℚ) < 65536 := by exact_mod_cast hlt
  obtain ⟨hcode, hcodeVal⟩ := i2f_finite_value (n := u.toNat) (by omega)
  obtain ⟨hscale, hscaleVal⟩ := i2f_finite_value (n := 32767) (by decide)
  have hquot := fdiv_isRounding hcode hscale (fIsZero_eq_false_of_fVal (by rw [hscaleVal]; norm_num))
  rw [hcodeVal, hscaleVal] at hquot
  push_cast at hquot
  have hsize : |(u.toNat : ℚ) / 32767| ≤ 2 ^ 2 := by
    rw [abs_of_nonneg (by positivity)]
    linarith
  obtain ⟨hquotFinite, hquotClose⟩ := hquot.close (k := 2) (by decide) hsize
  have hdiff := fsub_isRounding hquotFinite fOne_finite
  rw [fVal_fOne] at hdiff
  rw [abs_le] at hquotClose
  have hdiffSize : |fVal (fdiv (i2f u.toNat) (i2f 32767)) - 1| ≤ 2 ^ 2 := by
    have hpos : (0 : ℚ) ≤ u.toNat := by positivity
    rw [abs_le]
    constructor <;> linarith
  obtain ⟨hfinite, hclose⟩ := hdiff.close (k := 2) (by decide) hdiffSize
  rw [abs_le] at hclose
  have hdecode : decode16 .binary32 u = fsub (fdiv (i2f u.toNat) (i2f 32767)) fOne := by simp [decode16, Config.scale16]
  rw [hdecode, abs_le]
  exact ⟨hfinite, by constructor <;> linarith⟩

/-! ## Encoding -/

/-- Truncation of a value strictly between two successive naturals. -/
theorem f2iTrunc_of_close {v : Binary32} {u : Nat} (hv : fIsFinite v = true) (hclose : |fVal v - (u + 1 / 2)| < 1 / 2) :
    f2iTrunc v = .ok u := by
  rw [abs_lt] at hclose
  have hlo : (u * 2 ^ 149 : ℚ) < fUnits v := by rw [← fVal_mul_units]; linarith
  have hhi : (fUnits v : ℚ) < (u + 1) * 2 ^ 149 := by rw [← fVal_mul_units]; linarith
  have hlo' : (u * 2 ^ 149 : Int) < fUnits v := by exact_mod_cast hlo
  have hhi' : fUnits v < ((u + 1) * 2 ^ 149 : Int) := by exact_mod_cast hhi
  rw [f2iTrunc, if_pos hv, unitBits, Int.tdiv_eq_ediv_of_nonneg (by omega)]
  congr 1
  omega

/-- The three roundings of an encode move the scaled value by less than the half that it adds leaves. -/
theorem toInt_encodeScaled {f : F32} {scale : Int} {u : Nat} (hf : fIsFinite f = true) (hscale : 0 ≤ scale)
    (hscale' : scale ≤ 2 ^ 15) (hrange : |fVal f + 1| ≤ 2 ^ 2) (hclose : |(fVal f + 1) * scale - u| ≤ 1 / 4) :
    Fp.binary32.toInt (encodeScaled .binary32 scale f) = .ok u := by
  obtain ⟨hfactor, hfactorVal⟩ := i2f_finite_value (n := scale) (by omega)
  have hnonneg : (0 : ℚ) ≤ scale := by exact_mod_cast hscale
  have hmax : (scale : ℚ) ≤ 2 ^ 15 := by exact_mod_cast hscale'
  have hsum := fadd_isRounding hf fOne_finite
  rw [fVal_fOne] at hsum
  obtain ⟨hsumFinite, hsumClose⟩ := hsum.close (k := 2) (by decide) hrange
  have hshift : |fVal (fadd f fOne) * scale - (fVal f + 1) * scale| ≤ 2 ^ 2 / 2 ^ 25 * 2 ^ 15 := by
    rw [← sub_mul, abs_mul, abs_of_nonneg hnonneg]
    gcongr
  have hsize : |(fVal f + 1) * scale| ≤ 2 ^ 2 * 2 ^ 15 := by
    rw [abs_mul, abs_of_nonneg hnonneg]
    gcongr
  rw [abs_le] at hshift hsize
  have hprod := fmul_isRounding hsumFinite hfactor
  rw [hfactorVal] at hprod
  obtain ⟨hprodFinite, hprodClose⟩ := hprod.close (k := 18) (by decide) (abs_le.mpr ⟨by linarith, by linarith⟩)
  rw [abs_le] at hprodClose
  have hhalf := fadd_isRounding hprodFinite fHalf_finite
  rw [fVal_fHalf] at hhalf
  obtain ⟨hfinite, hhalfClose⟩ := hhalf.close (k := 19) (by decide) (abs_le.mpr ⟨by linarith, by linarith⟩)
  rw [abs_le] at hhalfClose hclose
  have htrunc := f2iTrunc_of_close (u := u) hfinite (abs_lt.mpr ⟨by linarith, by linarith⟩)
  simpa [encodeScaled] using htrunc

/-! ## Round trips -/

theorem encode12_decode12 (u : Sample12) : encode12 .binary32 (decode12 .binary32 u) = .ok (u.toNat : Int) := by
  obtain ⟨hfinite, hval⟩ := decode12_exact u
  have hlt : u.toNat < 4096 := u.isLt
  have hu : (u.toNat : ℚ) < 4096 := by exact_mod_cast hlt
  have hnonneg : (0 : ℚ) ≤ u.toNat := by positivity
  refine toInt_encodeScaled hfinite (by decide) (by decide) ?_ ?_
  · rw [hval, abs_le]
    constructor <;> linarith
  · rw [hval, Config.mid12, show ((u.toNat - 2048) / 2048 + 1 : ℚ) * (2048 : Int) - u.toNat = 0 by push_cast; ring]
    norm_num

/-- The result is the truncated integer reduced mod 65536 (R85). -/
theorem encode16_of_toInt {fp : Fp} {f : F32} {z : Int} (h : fp.toInt (encodeScaled fp Config.scale16 f) = .ok z) :
    ∃ u : Sample16, encode16 fp f = .ok u ∧ (u.toNat : Int) = z % 65536 := by
  refine ⟨BitVec.ofInt Config.netBits (z % 2 ^ Config.netBits), by simp only [encode16, h], ?_⟩
  rw [BitVec.toNat_ofInt]
  norm_num [Config.netBits]
  omega

theorem encode16_decode16 (u : Sample16) : encode16 .binary32 (decode16 .binary32 u) = .ok u := by
  obtain ⟨hfinite, hclose⟩ := decode16_close u
  have hlt : u.toNat < 65536 := u.isLt
  have hu : (u.toNat : ℚ) < 65536 := by exact_mod_cast hlt
  have hnonneg : (0 : ℚ) ≤ u.toNat := by positivity
  rw [abs_le] at hclose
  have hint : Fp.binary32.toInt (encodeScaled .binary32 Config.scale16 (decode16 .binary32 u)) = .ok u.toNat := by
    refine toInt_encodeScaled hfinite (by decide) (by decide) ?_ ?_
    · rw [abs_le]
      constructor <;> linarith
    · rw [Config.scale16, abs_le]
      push_cast
      constructor <;> linarith
  obtain ⟨w, hw, hmod⟩ := encode16_of_toInt hint
  rw [hw, BitVec.eq_of_toNat_eq (x := w) (y := u) (by omega)]

end Sys2Proof.Machine
end

section
/-! PROOFS. The bytes of samples as arithmetic: UNPACK12, DES16 and SER16 are big-endian (R32, R33, R81, R91, R92). -/

namespace Sys2Proof.Machine

/-! ## Triplets -/

theorem tripletValue_toNat (t0 t1 t2 : Byte) :
    (tripletValue t0 t1 t2).toNat = t0.toNat * 65536 + t1.toNat * 256 + t2.toNat := by
  have h0 : t0.toNat < 256 := t0.isLt
  have h1 : t1.toNat < 256 := t1.isLt
  have h2 : t2.toNat < 2 ^ 8 := t2.isLt
  calc (tripletValue t0 t1 t2).toNat = t0.toNat * 65536 ||| (t1.toNat * 256 ||| t2.toNat) := by
        simp (disch := omega) [tripletValue, Config.groupBits, Config.groupSamples, Config.modemBits, Nat.shiftLeft_eq,
          Nat.or_assoc, Nat.mod_eq_of_lt]
    _ = t0.toNat * 65536 ||| (t1.toNat * 256 + t2.toNat) := by
        rw [← Nat.shiftLeft_eq _ 8, Nat.shiftLeft_add_eq_or_of_lt h2]
    _ = t0.toNat * 65536 + t1.toNat * 256 + t2.toNat := by
        rw [← Nat.shiftLeft_eq _ 16, ← Nat.shiftLeft_add_eq_or_of_lt (by omega), Nat.add_assoc]

theorem unpackTriplet_eq (t0 t1 t2 : Byte) :
    unpackTriplet t0 t1 t2 = (BitVec.ofNat 12 ((tripletValue t0 t1 t2).toNat / 4096),
      BitVec.ofNat 12 ((tripletValue t0 t1 t2).toNat % 4096)) := by
  have lane (n : Nat) : n &&& 4095 = n % 4096 := Nat.and_two_pow_sub_one_eq_mod n 12
  simp [unpackTriplet, ← BitVec.toNat_inj, lane, Nat.shiftRight_eq_div_pow, Config.groupBits, Config.groupSamples,
    Config.modemBits, Config.modemMask]

theorem packValue_of_samples (a b : Sample12) : (packValue a.toNat b.toNat).toNat = a.toNat * 4096 + b.toNat := by
  have ha : a.toNat < 4096 := a.isLt
  have hb : b.toNat < 4096 := b.isLt
  have hword := packValue_toNat a.toNat b.toNat
  omega

theorem tripletValue_digits {v : Nat} (hv : v < 2 ^ 24) :
    (tripletValue (BitVec.ofNat 8 (v / 65536)) (BitVec.ofNat 8 (v / 256 % 256)) (BitVec.ofNat 8 (v % 256))).toNat = v := by
  rw [tripletValue_toNat, BitVec.toNat_ofNat, BitVec.toNat_ofNat, BitVec.toNat_ofNat]
  omega

theorem unpackTriplet_packTriplet (a b : Sample12) :
    ∃ t0 t1 t2, packTriplet a.toNat b.toNat = [t0, t1, t2] ∧ unpackTriplet t0 t1 t2 = (a, b) := by
  have ha : a.toNat < 4096 := a.isLt
  have hb : b.toNat < 4096 := b.isLt
  have hword := packValue_of_samples a b
  refine ⟨_, _, _, packTriplet_eq_digits _ _, ?_⟩
  rw [unpackTriplet_eq, tripletValue_digits (BitVec.isLt _), hword,
    show (a.toNat * 4096 + b.toNat) / 4096 = a.toNat by omega, show (a.toNat * 4096 + b.toNat) % 4096 = b.toNat by omega]
  simp

theorem packTriplet_unpackTriplet (t0 t1 t2 : Byte) :
    packTriplet (unpackTriplet t0 t1 t2).1.toNat (unpackTriplet t0 t1 t2).2.toNat = [t0, t1, t2] := by
  have h0 : t0.toNat < 256 := t0.isLt
  have h1 : t1.toNat < 256 := t1.isLt
  have h2 : t2.toNat < 256 := t2.isLt
  have hword : (packValue (unpackTriplet t0 t1 t2).1.toNat (unpackTriplet t0 t1 t2).2.toNat).toNat =
      t0.toNat * 65536 + t1.toNat * 256 + t2.toNat := by
    rw [packValue_of_samples, unpackTriplet_eq, tripletValue_toNat, BitVec.toNat_ofNat, BitVec.toNat_ofNat,
      show 2 ^ Config.modemBits = 4096 from rfl]
    omega
  rw [packTriplet_eq_digits, hword]
  simp only [List.cons.injEq, and_true, ← BitVec.toNat_inj, BitVec.toNat_ofNat]
  omega

/-! ## Pairs -/

theorem pairSample_toNat (p0 p1 : Byte) : (pairSample p0 p1).toNat = p0.toNat * 256 + p1.toNat := by
  have h0 : p0.toNat < 256 := p0.isLt
  have h1 : p1.toNat < 2 ^ 8 := p1.isLt
  calc (pairSample p0 p1).toNat = p0.toNat * 256 ||| p1.toNat := by
        simp (disch := omega) [pairSample, Config.netBits, Nat.shiftLeft_eq, Nat.mod_eq_of_lt]
    _ = p0.toNat * 256 + p1.toNat := by rw [← Nat.shiftLeft_eq _ 8, Nat.shiftLeft_add_eq_or_of_lt h1]

/-- SER16's bytes are the base-256 digits of the sample, most significant first. -/
theorem sampleBytes_eq (u : Sample16) : sampleBytes u = [BitVec.ofNat 8 (u.toNat / 256), BitVec.ofNat 8 (u.toNat % 256)] := by
  have digit (n : Nat) : n &&& 255 = n % 256 := Nat.and_two_pow_sub_one_eq_mod n 8
  simp [sampleBytes, ← BitVec.toNat_inj, digit, Nat.shiftRight_eq_div_pow, Config.netBits]

theorem pairSample_sampleBytes (u : Sample16) : ∃ p0 p1, sampleBytes u = [p0, p1] ∧ pairSample p0 p1 = u := by
  have hu : u.toNat < 65536 := u.isLt
  refine ⟨_, _, sampleBytes_eq u, BitVec.eq_of_toNat_eq ?_⟩
  rw [pairSample_toNat, BitVec.toNat_ofNat, BitVec.toNat_ofNat]
  omega

theorem sampleBytes_pairSample (p0 p1 : Byte) : sampleBytes (pairSample p0 p1) = [p0, p1] := by
  have h0 : p0.toNat < 256 := p0.isLt
  have h1 : p1.toNat < 256 := p1.isLt
  rw [sampleBytes_eq, pairSample_toNat]
  simp only [List.cons.injEq, and_true, ← BitVec.toNat_inj, BitVec.toNat_ofNat]
  omega

end Sys2Proof.Machine
end

section
/-! PROOFS. The two pipelines as compositions of the units over lists of samples (R96, R121, R125). -/

namespace Sys2Proof.Machine

theorem mapM_eq_ok_iff {ε α β : Type} {f : α → Except ε β} {xs : List α} {ys : List β} :
    xs.mapM f = .ok ys ↔ xs.map f = ys.map .ok := by
  induction xs generalizing ys with
  | nil => cases ys <;> simp [pure, Except.pure]
  | cons x xs ih =>
    rw [List.mapM_cons, List.map_cons]
    cases hx : f x with
    | error e => cases ys <;> simp [bind, Except.bind]
    | ok y =>
      cases ys with
      | nil => cases xs.mapM f <;> simp [bind, Except.bind, pure, Except.pure]
      | cons z zs =>
        rw [List.map_cons, List.cons.injEq, ← ih]
        cases xs.mapM f <;> simp [bind, Except.bind, pure, Except.pure]

theorem sampleToNet_eq (fp : Fp) (f : Filter) (u : Sample12) :
    sampleToNet fp f u = (encode16 fp (filterStep fp f (decode12 fp u)).1).map fun w =>
      (sampleBytes w, (filterStep fp f (decode12 fp u)).2) := by
  unfold sampleToNet
  cases encode16 fp (filterStep fp f (decode12 fp u)).1 <;> rfl

/-- The pipeline filters every sample and stops at the first that does not encode; bytes short of a group are no samples. -/
theorem groupsToNet_eq_mapM (fp : Fp) (f : Filter) (d : List Byte) :
    groupsToNet fp f d = ((filterRun fp f ((tripletSamples d).map (decode12 fp))).1.mapM (encode16 fp)).map fun ws =>
      (ws.flatMap sampleBytes, (filterRun fp f ((tripletSamples d).map (decode12 fp))).2) := by
  induction d using tripletSamples.induct generalizing f with
  | case1 t0 t1 t2 rest ih =>
    rw [groupsToNet_cons, groupToNet, sampleToNet_eq]
    simp only [tripletSamples, List.map_cons, filterRun, List.mapM_cons]
    cases encode16 fp (filterStep fp f (decode12 fp (unpackTriplet t0 t1 t2).1)).1 with
    | error bits => rfl
    | ok a =>
      simp only [Except.map, except_bind_ok, sampleToNet_eq]
      cases encode16 fp (filterStep fp (filterStep fp f (decode12 fp (unpackTriplet t0 t1 t2).1)).2
          (decode12 fp (unpackTriplet t0 t1 t2).2)).1 with
      | error bits => rfl
      | ok b =>
        simp only [except_bind_ok, ih]
        cases (filterRun fp _ ((tripletSamples rest).map (decode12 fp))).1.mapM (encode16 fp) with
        | error bits => rfl
        | ok ws => simp [bind, Except.bind, pure, Except.pure, Except.map]
  | case2 d h =>
    rw [groupsToNet, tripletSamples]
    · rfl
    all_goals exact h

theorem packPairs_cons_ok {fp : Fp} {fa fb : F32} {a b : Int} (rest : List F32) (ha : encode12 fp fa = .ok a)
    (hb : encode12 fp fb = .ok b) :
    packPairs fp (fa :: fb :: rest) = (packTriplet a b ++ (packPairs fp rest).1, (packPairs fp rest).2) := by
  simp only [packPairs, ha, hb]

theorem packPairs_of_encoded (fp : Fp) (ps : List (F32 × F32)) (zs : List (Int × Int))
    (ha : (ps.map fun p => encode12 fp p.1) = zs.map fun z => .ok z.1)
    (hb : (ps.map fun p => encode12 fp p.2) = zs.map fun z => .ok z.2) :
    packPairs fp (ps.flatMap fun p => [p.1, p.2]) = (zs.flatMap fun z => packTriplet z.1 z.2, none) := by
  induction ps generalizing zs with
  | nil =>
    obtain rfl : zs = [] := List.map_eq_nil_iff.mp ha.symm
    rfl
  | cons p ps ih =>
    match zs with
    | [] => cases ha
    | z :: zs =>
      obtain ⟨ha, has⟩ := List.cons.inj ha
      obtain ⟨hb, hbs⟩ := List.cons.inj hb
      rw [List.flatMap_cons, List.cons_append, List.cons_append, List.nil_append, packPairs_cons_ok _ ha hb, ih zs has hbs,
        List.flatMap_cons]

end Sys2Proof.Machine
end

section
/-! PROOFS. What the codec's units do in a block that runs, and how an encode that is no number ends (R87, R143, R146). -/

namespace Sys2Proof.Machine

theorem exec_unpack12 {s : State} (hf : s.faulted = false) (t0 t1 t2 : Byte) :
    exec (.unpack12 t0 t1 t2) s = .next (s.yield (.samples (unpackTriplet t0 t1 t2).1 (unpackTriplet t0 t1 t2).2)) := by
  rw [exec, execUnpack12]
  exact runInner_ok hf rfl

theorem exec_dec12f {s : State} (hf : s.faulted = false) (u : Sample12) :
    exec (.dec12f u) s = .next (s.yield (.float (decode12 s.cfg.fp u))) := by
  rw [exec, execDec12f]
  exact runInner_ok hf rfl

theorem exec_dec16f {s : State} (hf : s.faulted = false) (u : Sample16) :
    exec (.dec16f u) s = .next (s.yield (.float (decode16 s.cfg.fp u))) := by
  rw [exec, execDec16f]
  exact runInner_ok hf rfl

theorem exec_des16 {s : State} (hf : s.faulted = false) (p0 p1 : Byte) :
    exec (.des16 p0 p1) s = .next (s.yield (.sample16 (pairSample p0 p1))) := by
  rw [exec, execDes16]
  exact runInner_ok hf rfl

theorem exec_ser16 {s : State} (hf : s.faulted = false) (u : Sample16) :
    exec (.ser16 u) s = .next (s.yield (.bytes (sampleBytes u))) := by
  rw [exec, execSer16]
  exact runInner_ok hf rfl

theorem numeric_of_ok {α : Type} {r : Except F32 α} {v : α} (s : State) (g : α → Result) (h : r = .ok v) :
    numeric s r g = .ok (g v) s := by rw [h, numeric]

theorem numeric_of_error {α : Type} {r : Except F32 α} {bits : F32} (s : State) (g : α → Result) (h : r = .error bits) :
    numeric s r g = .raised (.numericFault bits) s := by rw [h, numeric]

theorem exec_enc12 (f : F32) (s : State) :
    exec (.enc12 f) s = runInner (fun t => numeric t (encode12 t.cfg.fp f) .integer) s := rfl

theorem exec_enc16 (f : F32) (s : State) :
    exec (.enc16 f) s = runInner (fun t => numeric t (encode16 t.cfg.fp f) .sample16) s := rfl

theorem exec_enc12_of_ok {s : State} {f : F32} {z : Int} (hf : s.faulted = false) (h : encode12 s.cfg.fp f = .ok z) :
    exec (.enc12 f) s = .next (s.yield (.integer z)) := by
  rw [exec_enc12]
  exact runInner_ok hf (numeric_of_ok s _ h)

theorem exec_enc16_of_ok {s : State} {f : F32} {u : Sample16} (hf : s.faulted = false) (h : encode16 s.cfg.fp f = .ok u) :
    exec (.enc16 f) s = .next (s.yield (.sample16 u)) := by
  rw [exec_enc16]
  exact runInner_ok hf (numeric_of_ok s _ h)

theorem enc12_endsInFault {s : State} {f bits : F32} (hf : s.faulted = false) (h : encode12 s.cfg.fp f = .error bits) :
    EndsInFault (.enc12 f) 0x06 (.numericFault bits) s :=
  endsInFault_of_runInner (x := .numericFault bits) (by simp [Instr.level]) (exec_enc12 f s) hf (numeric_of_error s _ h)

theorem enc16_endsInFault {s : State} {f bits : F32} (hf : s.faulted = false) (h : encode16 s.cfg.fp f = .error bits) :
    EndsInFault (.enc16 f) 0x06 (.numericFault bits) s :=
  endsInFault_of_runInner (x := .numericFault bits) (by simp [Instr.level]) (exec_enc16 f s) hf (numeric_of_error s _ h)

theorem encode16_of_error {fp : Fp} {f bits : F32} (h : fp.toInt (encodeScaled fp Config.scale16 f) = .error bits) :
    encode16 fp f = .error bits := by
  simp only [encode16, h]

/-- The cast truncates toward zero; what is no number is handed back (R87, D6). -/
theorem toInt_binary32_eq (v : F32) :
    Fp.binary32.toInt v = if fIsFinite v then .ok ((fUnits v).tdiv (2 ^ 149)) else .error v := by
  rw [Fp.toInt_binary32, f2iTrunc, unitBits]

end Sys2Proof.Machine
end

section
/-! PROOFS. The family 41_sample_codec.md. -/

open Sys2Proof Sys2Proof.Machine

/-- Settles O29: the pipeline is the filter run over all samples and then ENC16 on each, stopping at the first error. -/
theorem pipelineComposesTheUnits : Obligations.PipelineComposesTheUnits := by
  unfold Obligations.PipelineComposesTheUnits
  intro fp k d out f f' _
  rw [groupsToNet_eq_mapM]
  constructor
  · intro h
    cases hws : (filterRun fp f ((tripletSamples d).map (decode12 fp))).1.mapM (encode16 fp) with
    | error bits => rw [hws] at h; cases h
    | ok ws =>
      rw [hws] at h
      cases h
      exact ⟨ws, mapM_eq_ok_iff.mp hws, rfl, rfl⟩
  · rintro ⟨ws, hws, rfl, rfl⟩
    rw [mapM_eq_ok_iff.mpr hws]
    rfl

/-- Settles O36: by induction on the pairs, each of which packs its two results and goes on. -/
theorem packingComposesTheUnits : Obligations.PackingComposesTheUnits := by
  unfold Obligations.PackingComposesTheUnits
  exact packPairs_of_encoded

/-- Settles O45: the word of the triplet is its big-endian value, and the lanes are its quotient and remainder by 4096. -/
theorem unpackSplitsTheBigEndianValue : Obligations.UnpackSplitsTheBigEndianValue := by
  unfold Obligations.UnpackSplitsTheBigEndianValue
  intro s t0 t1 t2 hf
  rw [← tripletValue_toNat, exec_unpack12 hf, unpackTriplet_eq]
  exact ⟨rfl, fun _ => rfl⟩

/-- Settles O47: both ways the word in the middle is the same, and its digits or its lanes determine it. -/
theorem tripletRoundTrips : Obligations.TripletRoundTrips := by
  unfold Obligations.TripletRoundTrips
  exact ⟨unpackTriplet_packTriplet, packTriplet_unpackTriplet⟩

/-- Settles O48: the sample's two base-256 digits are its bytes. -/
theorem networkSamplesAreBigEndian : Obligations.NetworkSamplesAreBigEndian := by
  unfold Obligations.NetworkSamplesAreBigEndian
  intro s hf
  refine ⟨fun p0 p1 => ?_, fun u => ?_, pairSample_sampleBytes, sampleBytes_pairSample, fun _ _ _ => rfl, fun _ _ => rfl⟩
  · rw [exec_des16 hf, ← pairSample_toNat, BitVec.ofNat_toNat, BitVec.setWidth_eq]
    rfl
  · rw [exec_ser16 hf, sampleBytes_eq]
    rfl

/-- Settles O49: in binary32 24 bits hold both results of the formula. -/
theorem decode12IsExact : Obligations.Decode12IsExact := by
  unfold Obligations.Decode12IsExact
  intro s u hf
  refine ⟨exec_dec12f hf u, fun hfp => ⟨decode12 .binary32 u, hfp ▸ exec_dec12f hf u, (decode12_exact u).1,
    decode12_units u, fun hu => ?_⟩⟩
  obtain rfl : u = 2048 := BitVec.eq_of_toNat_eq hu
  decide +kernel

/-- Settles O51: the scaled value is the formula's, and its conversion decides between the result and the fault. -/
theorem encode12FollowsItsFormula : Obligations.Encode12FollowsItsFormula := by
  unfold Obligations.Encode12FollowsItsFormula
  rintro s f v hf rfl
  exact ⟨fun z hz => exec_enc12_of_ok hf hz, fun bits hbits => enc12_endsInFault hf hbits,
    fun hfp => hfp ▸ toInt_binary32_eq _⟩

/-- Settles O52: as for ENC12, and the integer that the formula gives is reduced mod 65536. -/
theorem encode16FollowsItsFormula : Obligations.Encode16FollowsItsFormula := by
  unfold Obligations.Encode16FollowsItsFormula
  rintro s f v hf rfl
  refine ⟨fun z hz => ?_, fun bits hbits => enc16_endsInFault hf (encode16_of_error hbits),
    fun hfp => hfp ▸ toInt_binary32_eq _⟩
  obtain ⟨u, hu, hmod⟩ := encode16_of_toInt hz
  exact ⟨u, exec_enc16_of_ok hf hu, hmod⟩

/-- Settles O54: the roundings of decoding and encoding together move the scaled value by less than a half. -/
theorem roundTrip16IsExact : Obligations.RoundTrip16IsExact := by
  unfold Obligations.RoundTrip16IsExact
  exact encode16_decode16

/-- Settles O50: the unit's body is the formula, and the literals are the constants of R88. -/
theorem decode16FollowsItsFormula : Obligations.Decode16FollowsItsFormula := by
  unfold Obligations.Decode16FollowsItsFormula
  exact ⟨Fp.one_binary32, Fp.half_binary32, fun s u hf => exec_dec16f hf u⟩

/-- Settles O53: decoding is exact, so the encode's three roundings start from the code itself. -/
theorem roundTrip12IsExact : Obligations.RoundTrip12IsExact := by
  unfold Obligations.RoundTrip12IsExact
  exact encode12_decode12

end

section
/-! PROOFS. Zeros, infinities and NaNs through the operations: a zero stays a zero, and a finite result has finite operands
(R7, R87, D4, D24). -/

namespace Sys2Proof.Machine

/-! ## Zeros -/

theorem fMag_of_fIsZero {x : Binary32} (h : fIsZero x = true) : fMag x = 0 := of_decide_eq_true h

theorem finite_of_fIsZero {x : Binary32} (h : fIsZero x = true) : fIsFinite x = true :=
  decide_eq_true ((fMag_of_fIsZero h).trans_lt (by decide))

theorem fUnits_of_fIsZero {x : Binary32} (h : fIsZero x = true) : fUnits x = 0 := by
  simp [fUnits, fMag_of_fIsZero h]

theorem fVal_of_fIsZero {x : Binary32} (h : fIsZero x = true) : fVal x = 0 := by
  simp [fVal, fUnits_of_fIsZero h]

theorem fIsZero_of_nearestMag {n d : Nat} {x : Binary32} (h : NearestMag n d (fMag x)) (hd : 0 < d) (hn : n = 0) :
    fIsZero x = true :=
  decide_eq_true (h.eq_of_magUnits hd (Nat.zero_le _) (by simp [hn]))

theorem fIsZero_fadd {a b : Binary32} (ha : fIsZero a = true) (hb : fIsZero b = true) : fIsZero (fadd a b) = true :=
  fIsZero_of_nearestMag (fadd_isRounded (finite_of_fIsZero ha) (finite_of_fIsZero hb)).1 one_pos
    (by simp [fUnits_of_fIsZero ha, fUnits_of_fIsZero hb])

theorem fIsZero_fsub {a b : Binary32} (ha : fIsZero a = true) (hb : fIsZero b = true) : fIsZero (fsub a b) = true :=
  fIsZero_of_nearestMag (fsub_isRounded (finite_of_fIsZero ha) (finite_of_fIsZero hb)).1 one_pos
    (by simp [fUnits_fNeg, fUnits_of_fIsZero ha, fUnits_of_fIsZero hb])

theorem fIsZero_fmul_of_left {a b : Binary32} (ha : fIsZero a = true) (hb : fIsFinite b = true) :
    fIsZero (fmul a b) = true :=
  fIsZero_of_nearestMag (fmul_isRounded (finite_of_fIsZero ha) hb).1 (by positivity) (by simp [fMag_of_fIsZero ha])

theorem fIsZero_fmul_of_right {a b : Binary32} (ha : fIsFinite a = true) (hb : fIsZero b = true) :
    fIsZero (fmul a b) = true :=
  fIsZero_of_nearestMag (fmul_isRounded ha (finite_of_fIsZero hb)).1 (by positivity) (by simp [fMag_of_fIsZero hb])

theorem fIsZero_fdiv {a b : Binary32} (ha : fIsZero a = true) (hb : fIsFinite b = true) (h0 : fIsZero b = false) :
    fIsZero (fdiv a b) = true :=
  fIsZero_of_nearestMag (fdiv_isRounded (finite_of_fIsZero ha) hb h0).1 (magUnits_pos (of_decide_eq_false h0))
    (by simp [fMag_of_fIsZero ha])

/-! ## Infinities and NaNs -/

theorem fIsFinite_eq_false_iff {x : Binary32} : fIsFinite x = false ↔ infMag ≤ fMag x := by
  simp [fIsFinite]

theorem not_finite_of_nan {x : Binary32} (h : fIsNaN x = true) : fIsFinite x = false :=
  fIsFinite_eq_false_iff.mpr (of_decide_eq_true h : infMag < fMag x).le

theorem not_finite_of_inf {x : Binary32} (h : fIsInf x = true) : fIsFinite x = false :=
  fIsFinite_eq_false_iff.mpr (of_decide_eq_true h : fMag x = infMag).ge

theorem finite_of_not_nan_of_not_inf {x : Binary32} (hn : ¬ fIsNaN x = true) (hi : ¬ fIsInf x = true) :
    fIsFinite x = true := by
  simp only [fIsNaN, fIsInf, fIsFinite, decide_eq_true_eq] at *
  omega

theorem not_finite_fInf (neg : Bool) : fIsFinite (fInf neg) = false :=
  fIsFinite_eq_false_iff.mpr (fMag_fPack neg le_rfl).ge

/-- Setting bit 22 does not make the magnitude smaller. -/
theorem fMag_le_fMag_fQuieted (x : Binary32) : fMag x ≤ fMag (fQuieted x) := by
  have hlow (y : Binary32) : fMag y = (y.setWidth 31).toNat := by rw [BitVec.toNat_setWidth, fMag]
  rw [hlow, hlow, fQuieted, BitVec.setWidth_or, BitVec.toNat_or]
  exact Nat.left_le_or

theorem not_finite_fQuieted {x : Binary32} (h : fIsNaN x = true) : fIsFinite (fQuieted x) = false :=
  fIsFinite_eq_false_iff.mpr ((of_decide_eq_true h : infMag < fMag x).le.trans (fMag_le_fMag_fQuieted x))

theorem not_finite_freeQuietNaN (op : FpOp) (a b : Binary32) : fIsFinite (freeQuietNaN op a b) = false := by
  simp only [freeQuietNaN]
  split
  next hfree => exact not_finite_of_nan (Bool.and_elim_left hfree)
  next => decide

theorem not_finite_nanResult {op : FpOp} {a b : Binary32} (h : (fIsNaN a || fIsNaN b) = true) :
    fIsFinite (nanResult op a b) = false := by
  unfold nanResult
  split
  next => exact not_finite_freeQuietNaN op a b
  next =>
    split
    next ha => exact not_finite_fQuieted ha
    next ha => exact not_finite_fQuieted (by simpa [ha] using h)

/-! ## Finite results -/

theorem finite_of_finite_sumOf {a b : Binary32} (hnan : ¬ (fIsNaN a || fIsNaN b) = true)
    (h : fIsFinite (sumOf a b) = true) : fIsFinite a = true ∧ fIsFinite b = true := by
  obtain ⟨ha, hb⟩ : ¬ fIsNaN a = true ∧ ¬ fIsNaN b = true := by simpa using hnan
  unfold sumOf at h
  split at h
  next hinf => simp [not_finite_of_inf hinf] at h
  next hia =>
    split at h
    next hinf => simp [not_finite_of_inf hinf] at h
    next hib => exact ⟨finite_of_not_nan_of_not_inf ha hia, finite_of_not_nan_of_not_inf hb hib⟩

theorem finite_of_finite_fadd {a b : Binary32} (h : fIsFinite (fadd a b) = true) :
    fIsFinite a = true ∧ fIsFinite b = true := by
  unfold fadd at h
  split at h
  next hnan => simp [not_finite_nanResult hnan] at h
  next hnan =>
    split at h
    next => simp [not_finite_freeQuietNaN] at h
    next => exact finite_of_finite_sumOf hnan h

theorem fIsNaN_fNeg (x : Binary32) : fIsNaN (fNeg x) = fIsNaN x := by
  rw [fIsNaN, fIsNaN, fMag_fNeg]

theorem finite_of_finite_fsub {a b : Binary32} (h : fIsFinite (fsub a b) = true) :
    fIsFinite a = true ∧ fIsFinite b = true := by
  unfold fsub at h
  split at h
  next hnan => simp [not_finite_nanResult hnan] at h
  next hnan =>
    split at h
    next => simp [not_finite_freeQuietNaN] at h
    next => exact fIsFinite_fNeg b ▸ finite_of_finite_sumOf (by rwa [fIsNaN_fNeg]) h

theorem finite_of_finite_fmul {a b : Binary32} (h : fIsFinite (fmul a b) = true) :
    fIsFinite a = true ∧ fIsFinite b = true := by
  unfold fmul at h
  split at h
  next hnan => simp [not_finite_nanResult hnan] at h
  next hnan =>
    split at h
    next => simp [not_finite_freeQuietNaN] at h
    next =>
      split at h
      next => simp [not_finite_fInf] at h
      next hinf =>
        simp only [Bool.or_eq_true, not_or] at hnan hinf
        obtain ⟨⟨hna, hnb⟩, hia, hib⟩ := And.intro hnan hinf
        exact ⟨finite_of_not_nan_of_not_inf hna hia, finite_of_not_nan_of_not_inf hnb hib⟩

/-- A quotient by infinity is a zero, so only the dividend has to be finite. -/
theorem finite_of_finite_fdiv {a b : Binary32} (h : fIsFinite (fdiv a b) = true) : fIsFinite a = true := by
  unfold fdiv at h
  split at h
  next hnan => simp [not_finite_nanResult hnan] at h
  next hnan =>
    split at h
    next => simp [not_finite_freeQuietNaN] at h
    next =>
      split at h
      next => simp [not_finite_fInf] at h
      next hinf =>
        simp only [Bool.or_eq_true, not_or] at hnan hinf
        exact finite_of_not_nan_of_not_inf hnan.1 hinf.1

end Sys2Proof.Machine
end

section
/-! PROOFS. The filter in binary32 on silence and on a non-finite history, and what the codec does with what it gives (R107,
R108, R176). -/

namespace Sys2Proof.Machine

/-- A property of the filter that every step keeps holds after a run, and what every step's output meets all outputs meet. -/
theorem filterRun_invariant {fp : Fp} {keeps : Filter → Prop} {input output : F32 → Prop}
    (hstep : ∀ f x, keeps f → input x → output (filterStep fp f x).1 ∧ keeps (filterStep fp f x).2) (xs : List F32)
    {f : Filter} (hf : keeps f) (hxs : ∀ x ∈ xs, input x) :
    (∀ y ∈ (filterRun fp f xs).1, output y) ∧ keeps (filterRun fp f xs).2 := by
  induction xs generalizing f with
  | nil => exact ⟨by simp [filterRun], hf⟩
  | cons x xs ih =>
    rw [List.forall_mem_cons] at hxs
    obtain ⟨hout, hkeep⟩ := hstep f x hf hxs.1
    obtain ⟨houts, hend⟩ := ih hkeep hxs.2
    exact ⟨List.forall_mem_cons.mpr ⟨hout, houts⟩, hend⟩

/-! ## Silence -/

theorem Filter.legal_binary32_iff {f : Filter} : f.legal .binary32 = true ↔
    fIsFinite f.b0 = true ∧ fIsFinite f.b1 = true ∧ fIsFinite f.b2 = true ∧ fIsFinite f.a0 = true ∧
      fIsFinite f.a1 = true ∧ fIsFinite f.a2 = true ∧ fIsFinite f.g = true ∧ fIsZero f.a0 = false := by
  simp [Filter.legal, and_assoc]

theorem Filter.silent_binary32_iff {f : Filter} : f.silent .binary32 = true ↔
    fIsZero f.x1 = true ∧ fIsZero f.x2 = true ∧ fIsZero f.y1 = true ∧ fIsZero f.y2 = true := by
  simp [Filter.silent, and_assoc]

/-- Every product is a zero and every sum of zeros is a zero (R107). -/
theorem fIsZero_filterRaw {f : Filter} {x : F32} (hlegal : f.legal .binary32 = true) (hsilent : f.silent .binary32 = true)
    (hx : fIsZero x = true) : fIsZero (filterRaw .binary32 f x) = true := by
  obtain ⟨hb0, hb1, hb2, ha0, ha1, ha2, -, hdivisor⟩ := Filter.legal_binary32_iff.mp hlegal
  obtain ⟨hx1, hx2, hy1, hy2⟩ := Filter.silent_binary32_iff.mp hsilent
  simp only [filterRaw, Fp.add_binary32, Fp.sub_binary32, Fp.mul_binary32, Fp.div_binary32]
  have hinputs := fIsZero_fadd (fIsZero_fadd (fIsZero_fmul_of_right hb0 hx) (fIsZero_fmul_of_right hb1 hx1))
    (fIsZero_fmul_of_right hb2 hx2)
  have hall := fIsZero_fsub (fIsZero_fsub hinputs (fIsZero_fmul_of_right ha1 hy1)) (fIsZero_fmul_of_right ha2 hy2)
  exact fIsZero_fdiv hall ha0 hdivisor

theorem filterStep_silent {f : Filter} {x : F32} (hlegal : f.legal .binary32 = true) (hsilent : f.silent .binary32 = true)
    (hx : fIsZero x = true) :
    fIsZero (filterStep .binary32 f x).1 = true ∧
      (filterStep .binary32 f x).2.legal .binary32 = true ∧ (filterStep .binary32 f x).2.silent .binary32 = true := by
  have hraw := fIsZero_filterRaw hlegal hsilent hx
  obtain ⟨-, -, -, -, -, -, hg, -⟩ := Filter.legal_binary32_iff.mp hlegal
  obtain ⟨hx1, -, hy1, -⟩ := Filter.silent_binary32_iff.mp hsilent
  refine ⟨?_, hlegal, Filter.silent_binary32_iff.mpr ⟨hx, hx1, hraw, hy1⟩⟩
  rw [filterStep, Fp.mul_binary32]
  exact fIsZero_fmul_of_left hraw hg

/-- Either zero encodes to the scale itself, the code of the level zero. -/
theorem toInt_encodeScaled_of_zero {y : F32} (hy : fIsZero y = true) {scale : Nat} (hscale : scale ≤ 2 ^ 15) :
    Fp.binary32.toInt (encodeScaled .binary32 scale y) = .ok scale := by
  refine toInt_encodeScaled (finite_of_fIsZero hy) (by omega) (by exact_mod_cast hscale) ?_ ?_ <;>
    norm_num [fVal_of_fIsZero hy]

theorem encode12_of_zero {y : F32} (hy : fIsZero y = true) : encode12 .binary32 y = .ok 2048 :=
  toInt_encodeScaled_of_zero hy (scale := 2048) (by decide)

theorem encode16_of_zero {y : F32} (hy : fIsZero y = true) : encode16 .binary32 y = .ok 32767 := by
  obtain ⟨u, hu, hcode⟩ := encode16_of_toInt (toInt_encodeScaled_of_zero hy (scale := 32767) (by decide))
  rw [hu, BitVec.eq_of_toNat_eq (x := u) (y := 32767) (by change u.toNat = 32767; omega)]

/-! ## A non-finite history -/

theorem Filter.historyFinite_binary32_iff {f : Filter} : f.historyFinite .binary32 = true ↔
    fIsFinite f.x1 = true ∧ fIsFinite f.x2 = true ∧ fIsFinite f.y1 = true ∧ fIsFinite f.y2 = true := by
  simp [Filter.historyFinite, and_assoc]

/-- Each history value is in a product of the sum, so a finite raw output needs all four finite. -/
theorem historyFinite_of_finite_filterRaw {f : Filter} {x : F32} (h : fIsFinite (filterRaw .binary32 f x) = true) :
    f.historyFinite .binary32 = true := by
  simp only [filterRaw, Fp.add_binary32, Fp.sub_binary32, Fp.mul_binary32, Fp.div_binary32] at h
  obtain ⟨hsum, hy2⟩ := finite_of_finite_fsub (finite_of_finite_fdiv h)
  obtain ⟨hsum, hy1⟩ := finite_of_finite_fsub hsum
  obtain ⟨hsum, hx2⟩ := finite_of_finite_fadd hsum
  obtain ⟨-, hx1⟩ := finite_of_finite_fadd hsum
  exact Filter.historyFinite_binary32_iff.mpr ⟨(finite_of_finite_fmul hx1).2, (finite_of_finite_fmul hx2).2,
    (finite_of_finite_fmul hy1).2, (finite_of_finite_fmul hy2).2⟩

theorem filterStep_of_not_historyFinite {f : Filter} (x : F32) (h : f.historyFinite .binary32 = false) :
    fIsFinite (filterStep .binary32 f x).1 = false ∧ (filterStep .binary32 f x).2.historyFinite .binary32 = false := by
  have hraw : fIsFinite (filterRaw .binary32 f x) = false :=
    Bool.eq_false_of_not_eq_true fun hfinite => by simp [historyFinite_of_finite_filterRaw hfinite] at h
  constructor <;> refine Bool.eq_false_of_not_eq_true fun hfinite => ?_
  · rw [filterStep, Fp.mul_binary32] at hfinite
    simp [(finite_of_finite_fmul hfinite).1] at hraw
  · obtain ⟨-, -, hy1, -⟩ := Filter.historyFinite_binary32_iff.mp hfinite
    exact Bool.false_ne_true (hraw.symm.trans hy1)

theorem toInt_encodeScaled_of_not_finite {y : F32} (hy : fIsFinite y = false) (scale : Int) :
    ∃ bits, Fp.binary32.toInt (encodeScaled .binary32 scale y) = .error bits := by
  refine ⟨_, (Fp.toInt_binary32 _).trans (f2iTrunc_of_not_finite (Bool.eq_false_of_not_eq_true fun hfinite => ?_))⟩
  simp only [encodeScaled, Fp.add_binary32, Fp.mul_binary32] at hfinite
  have hshifted := (finite_of_finite_fmul (finite_of_finite_fadd hfinite).1).1
  simp [(finite_of_finite_fadd hshifted).1] at hy

theorem encodes_of_not_finite {y : F32} (hy : fIsFinite y = false) :
    (∃ bits, encode16 .binary32 y = .error bits) ∧ ∃ bits, encode12 .binary32 y = .error bits :=
  ⟨(toInt_encodeScaled_of_not_finite hy _).imp fun _ => encode16_of_error, toInt_encodeScaled_of_not_finite hy _⟩

end Sys2Proof.Machine
end

section
/-! PROOFS. The gain conversion in binary32: the comparisons with `10^(dB/20)`, the search for the magnitude below it, and its
rounding (R102, D7). -/

namespace Sys2Proof.Machine

/-! ## The comparisons -/

/-- `10^(dB/20)` in half units of 2^-150. -/
noncomputable def tenPowHalfUnits (dB : Rat) : ℝ := 2 ^ 150 * 10 ^ ((dB : ℝ) / 20)

theorem tenPowHalfUnits_pos (dB : Rat) : 0 < tenPowHalfUnits dB := by
  unfold tenPowHalfUnits
  positivity

/-- Raised to the power `20 * dB.den` the real power is `10 ^ dB.num`, which both comparisons spell without a division. -/
theorem tenPow_pow (dB : Rat) :
    ((10 : ℝ) ^ ((dB : ℝ) / 20)) ^ (20 * dB.den) * 10 ^ (-dB.num).toNat = 10 ^ dB.num.toNat := by
  have hexponent : (dB : ℝ) / 20 * (20 * dB.den : Nat) = (dB.num : ℝ) := by
    have hden : (dB : ℝ) * dB.den = dB.num := by exact_mod_cast Rat.mul_den_eq_num dB
    push_cast
    linarith
  have hnum : dB.num + (-dB.num).toNat = dB.num.toNat := by omega
  rw [← Real.rpow_natCast, ← Real.rpow_mul (by norm_num), hexponent, Real.rpow_intCast, ← zpow_natCast, ← zpow_natCast,
    ← zpow_add₀ (by norm_num), hnum]

theorem tenPowHalfUnits_pow (dB : Rat) :
    (2 : ℝ) ^ ((unitBits + 1) * (20 * dB.den)) * 10 ^ dB.num.toNat =
      tenPowHalfUnits dB ^ (20 * dB.den) * 10 ^ (-dB.num).toNat := by
  rw [tenPowHalfUnits, mul_pow, mul_assoc, tenPow_pow, pow_mul, unitBits]

theorem leTenPow_iff {dB : Rat} {j : Nat} : leTenPow dB j = true ↔ (j : ℝ) ≤ tenPowHalfUnits dB := by
  have hexponent : 20 * dB.den ≠ 0 := by simp [dB.den_ne_zero]
  rw [leTenPow, decide_eq_true_iff, ← Nat.cast_le (α := ℝ)]
  push_cast
  rw [tenPowHalfUnits_pow, mul_le_mul_iff_left₀ (by positivity),
    pow_le_pow_iff_left₀ (by positivity) (tenPowHalfUnits_pos dB).le hexponent]

theorem tenPowLe_iff {dB : Rat} {j : Nat} : tenPowLe dB j = true ↔ tenPowHalfUnits dB ≤ (j : ℝ) := by
  have hexponent : 20 * dB.den ≠ 0 := by simp [dB.den_ne_zero]
  rw [tenPowLe, decide_eq_true_iff, ← Nat.cast_le (α := ℝ)]
  push_cast
  rw [tenPowHalfUnits_pow, mul_le_mul_iff_left₀ (by positivity),
    pow_le_pow_iff_left₀ (tenPowHalfUnits_pos dB).le (by positivity) hexponent]

/-! ## The search -/

/-- What the search asks of a magnitude: finite, and its value at most `10^(dB/20)`. -/
def FiniteBelowTenPow (dB : Rat) (m : Nat) : Prop := m < infMag ∧ leTenPow dB (2 * magUnits m) = true

theorem finiteBelowTenPow_iff {dB : Rat} {m : Nat} :
    FiniteBelowTenPow dB m ↔ m < infMag ∧ (2 * magUnits m : ℝ) ≤ tenPowHalfUnits dB := by
  rw [FiniteBelowTenPow, leTenPow_iff]
  push_cast
  rfl

theorem tenPowFloor_succ_of_below {dB : Rat} {k m : Nat} (h : FiniteBelowTenPow dB (m + 2 ^ k)) :
    tenPowFloor dB (k + 1) m = tenPowFloor dB k (m + 2 ^ k) := by
  rw [tenPowFloor, if_pos (show _ ∧ _ from h)]

theorem tenPowFloor_succ_of_not_below {dB : Rat} {k m : Nat} (h : ¬ FiniteBelowTenPow dB (m + 2 ^ k)) :
    tenPowFloor dB (k + 1) m = tenPowFloor dB k m := by
  rw [tenPowFloor, if_neg (show ¬ (_ ∧ _) from h)]

/-- Each bit halves the interval between a magnitude that satisfies what is asked and one that does not. -/
theorem tenPowFloor_spec {dB : Rat} {k m : Nat} (hlo : FiniteBelowTenPow dB m) (hhi : ¬ FiniteBelowTenPow dB (m + 2 ^ k)) :
    FiniteBelowTenPow dB (tenPowFloor dB k m) ∧ ¬ FiniteBelowTenPow dB (tenPowFloor dB k m + 1) := by
  induction k generalizing m with
  | zero => exact ⟨hlo, hhi⟩
  | succ k ih =>
    by_cases hbit : FiniteBelowTenPow dB (m + 2 ^ k)
    · rw [tenPowFloor_succ_of_below hbit]
      exact ih hbit (by rwa [Nat.add_assoc, ← Nat.two_mul, ← Nat.pow_succ'])
    · rw [tenPowFloor_succ_of_not_below hbit]
      exact ih hlo hbit

theorem tenPowFloor_brackets (dB : Rat) :
    FiniteBelowTenPow dB (tenPowFloor dB 31 0) ∧ ¬ FiniteBelowTenPow dB (tenPowFloor dB 31 0 + 1) := by
  refine tenPowFloor_spec (finiteBelowTenPow_iff.mpr ⟨by decide, ?_⟩) fun h => absurd h.1 (by decide)
  simpa using (tenPowHalfUnits_pos dB).le

/-! ## The rounding -/

theorem abs_sub_lt_of_midpoint_above {a c h : ℝ} (hac : a < c) (hmid : h < a + c) : |2 * a - h| < |2 * c - h| := by
  rw [abs_of_pos (show 0 < 2 * c - h by linarith), abs_lt]
  constructor <;> linarith

theorem abs_sub_lt_of_midpoint_below {a c h : ℝ} (hca : c < a) (hmid : c + a < h) : |2 * a - h| < |2 * c - h| := by
  rw [abs_of_neg (show 2 * c - h < 0 by linarith), abs_lt]
  constructor <;> linarith

theorem abs_sub_eq_of_midpoint {a c h : ℝ} (hmid : a + c = h) : |2 * a - h| = |2 * c - h| := by
  rw [← hmid, ← abs_neg]
  congr 1
  ring

theorem magUnits_cast_lt {m c : Nat} (h : m < c) : (magUnits m : ℝ) < magUnits c := by
  exact_mod_cast magUnits_strictMono h

theorem magUnits_cast_le {m c : Nat} (h : m ≤ c) : (magUnits m : ℝ) ≤ magUnits c := by
  exact_mod_cast magUnits_strictMono.monotone h

theorem abs_value_sub (m : Nat) (dB : Rat) :
    |(magUnits m : ℝ) / 2 ^ unitBits - 10 ^ ((dB : ℝ) / 20)| = |2 * magUnits m - tenPowHalfUnits dB| / 2 ^ 150 := by
  have hscaled : (magUnits m : ℝ) / 2 ^ unitBits - 10 ^ ((dB : ℝ) / 20) =
      (2 * magUnits m - tenPowHalfUnits dB) / 2 ^ 150 := by
    rw [tenPowHalfUnits, unitBits]
    ring
  rw [hscaled, abs_div, abs_of_pos (show (0 : ℝ) < 2 ^ 150 by positivity)]

/-- The midpoints with the magnitudes below are below, those with the magnitudes above are above, and only an even magnitude
has a tie. -/
theorem nearestToReal_of_midpoints {dB : Rat} {m : Nat} (hm : m ≤ infMag)
    (hbelow : ∀ c < m, (magUnits c + magUnits m : ℝ) ≤ tenPowHalfUnits dB ∧
      ((magUnits c + magUnits m : ℝ) = tenPowHalfUnits dB → m % 2 = 0))
    (habove : ∀ c ≤ infMag, m < c → tenPowHalfUnits dB ≤ (magUnits m + magUnits c : ℝ) ∧
      ((magUnits m + magUnits c : ℝ) = tenPowHalfUnits dB → m % 2 = 0)) :
    NearestToReal ((10 : ℝ) ^ ((dB : ℝ) / 20)) m := by
  refine ⟨hm, fun c hc hne => ?_⟩
  rw [abs_value_sub, abs_value_sub, div_lt_div_iff_of_pos_right (by positivity), div_left_inj' (by positivity)]
  rcases Nat.lt_or_gt_of_ne hne with hlt | hgt
  · obtain ⟨hmid, htie⟩ := hbelow c hlt
    rcases hmid.lt_or_eq with hstrict | heq
    · exact .inl (abs_sub_lt_of_midpoint_below (magUnits_cast_lt hlt) hstrict)
    · exact .inr ⟨(abs_sub_eq_of_midpoint heq).symm, htie heq⟩
  · obtain ⟨hmid, htie⟩ := habove c hc hgt
    rcases hmid.lt_or_eq with hstrict | heq
    · exact .inl (abs_sub_lt_of_midpoint_above (magUnits_cast_lt hgt) hstrict)
    · exact .inr ⟨abs_sub_eq_of_midpoint heq.symm, htie heq.symm⟩

section
variable {dB : Rat} {p : Nat} (hp : FiniteBelowTenPow dB p)
include hp

/-- The magnitude above is the nearest when the midpoint is at most the power, and at a tie when it is the even one. -/
theorem nearestToReal_above (hp1 : ¬ FiniteBelowTenPow dB (p + 1))
    (hmid : (magUnits p + magUnits (p + 1) : ℝ) ≤ tenPowHalfUnits dB)
    (htie : (magUnits p + magUnits (p + 1) : ℝ) = tenPowHalfUnits dB → p % 2 = 1) :
    NearestToReal ((10 : ℝ) ^ ((dB : ℝ) / 20)) (p + 1) := by
  obtain ⟨hfinite, -⟩ := finiteBelowTenPow_iff.mp hp
  refine nearestToReal_of_midpoints hfinite (fun c hc => ?_) fun c hcmax hc => ?_
  · have hcp := magUnits_cast_le (Nat.lt_succ_iff.mp hc)
    refine ⟨by linarith, fun heq => ?_⟩
    have hodd := htie (by linarith)
    omega
  · have hpower : tenPowHalfUnits dB < 2 * magUnits (p + 1) := by
      by_contra hle
      exact hp1 (finiteBelowTenPow_iff.mpr ⟨by omega, not_lt.mp hle⟩)
    have hcp := magUnits_cast_lt hc
    exact ⟨by linarith, fun heq => by linarith⟩

/-- The magnitude below is the nearest when the midpoint is at least the power, and at a tie when it is the even one. -/
theorem nearestToReal_below (hmid : tenPowHalfUnits dB ≤ (magUnits p + magUnits (p + 1) : ℝ))
    (htie : (magUnits p + magUnits (p + 1) : ℝ) = tenPowHalfUnits dB → p % 2 = 0) :
    NearestToReal ((10 : ℝ) ^ ((dB : ℝ) / 20)) p := by
  obtain ⟨hfinite, hvalue⟩ := finiteBelowTenPow_iff.mp hp
  refine nearestToReal_of_midpoints hfinite.le (fun c hc => ?_) fun c _ hc => ?_
  · have hcp := magUnits_cast_lt hc
    exact ⟨by linarith, fun heq => by linarith⟩
  · have hcp := magUnits_cast_le (show p + 1 ≤ c from hc)
    exact ⟨by linarith, fun heq => htie (by linarith)⟩

end

/-- The nearer of a magnitude and the next one to `10^(dB/20)`, and at a tie the even one. -/
def nearerToTenPow (dB : Rat) (p : Nat) : Nat :=
  p + if leTenPow dB (magUnits p + magUnits (p + 1)) ∧ (p % 2 = 1 ∨ ¬ tenPowLe dB (magUnits p + magUnits (p + 1)))
    then 1 else 0

theorem dbToLin_eq (dB : Rat) : dbToLin dB = fPack false (nearerToTenPow dB (tenPowFloor dB 31 0)) := by
  rw [dbToLin, nearerToTenPow]

theorem nearerToTenPow_nearest {dB : Rat} {p : Nat} (hp : FiniteBelowTenPow dB p)
    (hp1 : ¬ FiniteBelowTenPow dB (p + 1)) : NearestToReal ((10 : ℝ) ^ ((dB : ℝ) / 20)) (nearerToTenPow dB p) := by
  simp only [nearerToTenPow, leTenPow_iff, tenPowLe_iff, Nat.cast_add]
  split
  next hup =>
    obtain ⟨hmid, htie⟩ := hup
    exact nearestToReal_above hp hp1 hmid fun heq => htie.resolve_right (not_not.mpr heq.ge)
  next hdown =>
    rcases not_and_or.mp hdown with hmid | htie
    · exact nearestToReal_below hp (not_le.mp hmid).le fun heq => absurd heq.le hmid
    · obtain ⟨heven, hmid⟩ := not_or.mp htie
      exact nearestToReal_below hp (not_not.mp hmid) fun _ => by omega

end Sys2Proof.Machine
end

section
/-! PROOFS. The family 42_emphasis_filter.md. -/

open Sys2Proof Sys2Proof.Machine

/-- Settles O57: the search brackets the power between two adjacent magnitudes, and their midpoint decides. -/
theorem gainIsTheNearestPower : Obligations.GainIsTheNearestPower := by
  unfold Obligations.GainIsTheNearestPower
  intro dB
  obtain ⟨hbelow, hnext⟩ := tenPowFloor_brackets dB
  have hnear := nearerToTenPow_nearest hbelow hnext
  rw [linearGain, ofDecibel_binary32, dbToLin_eq, fSign_fPack _ hnear.1, fMag_fPack _ hnear.1]
  exact ⟨rfl, hnear⟩

/-- Settles O59: a legal and silent filter stays so at every step, and both zeros have the value zero. -/
theorem silenceGivesSilence : Obligations.SilenceGivesSilence := by
  unfold Obligations.SilenceGivesSilence
  simp only [Fp.isZero_binary32]
  refine ⟨fun f xs hlegal hsilent hxs => ?_, fun y hy => ⟨encode16_of_zero hy, encode12_of_zero hy⟩,
    by decide +kernel, by decide +kernel⟩
  obtain ⟨houts, -, hend⟩ := filterRun_invariant (fp := .binary32)
    (keeps := fun f => f.legal .binary32 = true ∧ f.silent .binary32 = true) (input := fun x => fIsZero x = true)
    (output := fun y => fIsZero y = true) (fun _ _ ⟨hl, hs⟩ hx => filterStep_silent hl hs hx) xs ⟨hlegal, hsilent⟩ hxs
  exact ⟨houts, hend⟩

/-- Settles O60: a step from a non-finite history stores and returns a value that is not finite, and such a value has no
encoding. -/
theorem nonFiniteHistoryIsPermanent : Obligations.NonFiniteHistoryIsPermanent := by
  unfold Obligations.NonFiniteHistoryIsPermanent
  intro f xs hf
  obtain ⟨houts, hend⟩ := filterRun_invariant (fp := .binary32)
    (keeps := fun f => f.historyFinite .binary32 = false) (input := fun _ => True)
    (output := fun y => fIsFinite y = false) (fun _ x hf _ => filterStep_of_not_historyFinite x hf) xs hf fun _ _ => trivial
  exact ⟨hend, fun y hy => encodes_of_not_finite (houts y hy)⟩

end

section
/-! PROOFS. What a FAULTED block refuses, how a chunk and the arm that it selects end alike, and what HEADER, EOT and DATA do in
each case (R118 to R121, R147). -/

namespace Sys2Proof.Machine

/-! ## Refusals -/

/-- A host command asks first whether the block is FAULTED (R116, R147). -/
theorem exec_host_of_faulted {i : Instr} {s : State} (hi : i.level = .host) (hf : s.faulted = true) :
    exec i s = .next (s.report i .refused) := by
  cases i with
  | m2n chunk => exact if_pos hf
  | n2m capacity => exact if_pos hf
  | tick ms => exact if_pos hf
  | enable flag => exact if_pos hf
  | _ => cases hi

/-- So does an arm or a unit run on its own (log 5). -/
theorem exec_inner_of_faulted {i : Instr} {s : State} (hi : i.level ≠ .host) (hf : s.faulted = true) :
    exec i s = .next (s.yield .refused) := by
  cases i with
  | m2n chunk => exact absurd rfl hi
  | n2m capacity => exact absurd rfl hi
  | tick ms => exact absurd rfl hi
  | enable flag => exact absurd rfl hi
  | _ => exact if_pos hf

/-! ## A chunk and its arm -/

section
variable {chunk : Option (List Byte)} {arm : Instr} {body : State → Ran Result} {s : State}

/-- A chunk whose body is that of an arm completes as the arm does, and adds the command to the trace. -/
theorem exec_chunk_and_arm_of_ok {t : State} {r : Result} (hf : s.faulted = false) (hchunk : bodyM2n chunk s = body s)
    (harm : exec arm s = runInner body s) (h : body s = .ok r t) :
    exec (.m2n chunk) s = .next (t.report (.m2n chunk) r) ∧ exec arm s = .next (t.yield r) :=
  ⟨runCommand_ok hf (hchunk.trans h), harm.trans (runInner_ok hf h)⟩

/-- A raise of the body is the fault of the chunk and of the arm; the bytes that ACC then holds are unspecified anyway (R146). -/
theorem chunk_and_arm_endInFault {x : Raise} {acc : List Byte} (hf : s.faulted = false) (hlevel : arm.level = .arm)
    (hchunk : bodyM2n chunk s = body s) (harm : exec arm s = runInner body s) (h : body s = .raised x (s.withAcc acc)) :
    EndsInFault (.m2n chunk) (raiseCode x) x s ∧ EndsInFault arm (raiseCode x) x s := by
  refine ⟨runCommand_raised_entered (t := s.withAcc acc) hf (hchunk.trans h), ?_⟩
  rw [EndsInFault, harm, hlevel, if_neg nofun, List.append_nil]
  exact runInner_raised_entered (t := s.withAcc acc) hf h

end

/-! ## HEADER and EOT -/

theorem bodyM2n_of_header (s : State) (payload : List Byte) :
    bodyM2n (some (s.cfg.tags.header :: payload)) s = armHeader s := by
  simp only [bodyM2n, dispatchTag, classifyTag, if_true]

theorem bodyM2n_of_eot {s : State} (payload : List Byte) (h : s.cfg.tags.legal = true) :
    bodyM2n (some (s.cfg.tags.eot :: payload)) s = armEot s := by
  simp only [bodyM2n, dispatchTag, classifyTag_of_holds (a := .eot) h rfl]

theorem armEot_of_present {s : State} (hnet : s.netPresent = true) :
    armEot s = .ok (.flag (netWriteEot s).1) (netWriteEot s).2 := by
  rw [armEot, if_pos hnet]

theorem armEot_of_absent {s : State} (hnet : s.netPresent = false) : armEot s = .raised .netAbsent s := by
  simp [armEot, hnet]

theorem netWriteEot_of_scheduled {s : State} {r : Bool} {more : List Bool} (h : s.eotDraws = r :: more) :
    netWriteEot s = (r, { s with eotDraws := more }.logEvent (.writeEot r)) := by
  rw [netWriteEot, h]

theorem netWriteEot_of_unscheduled {s : State} (h : s.eotDraws = []) :
    netWriteEot s = (Config.freeEot s.freeCount,
      { s with freeCount := s.freeCount + 1 }.logEvent (.writeEot (Config.freeEot s.freeCount))) := by
  rw [netWriteEot, h]

/-! ## DATA -/

theorem netWriteData_of_scheduled {bytes : List Byte} {s : State} {r : Bool} {more : List Bool} (h : s.dataDraws = r :: more) :
    netWriteData bytes s = (r, { s with dataDraws := more }.logEvent (.writeData bytes r)) := by
  rw [netWriteData, h]

theorem netWriteData_of_unscheduled {bytes : List Byte} {s : State} (h : s.dataDraws = []) :
    netWriteData bytes s = (Config.freeData s.freeCount,
      { s with freeCount := s.freeCount + 1 }.logEvent (.writeData bytes (Config.freeData s.freeCount))) := by
  rw [netWriteData, h]

theorem armData_of_absent {s : State} (payload : List Byte) (hnet : s.netPresent = false) :
    armData payload s = .ok (.flag true) s := by
  simp [armData, hnet]

theorem armData_of_no_group {payload : List Byte} {s : State} (hnet : s.netPresent = true)
    (hfits : accFits s.cfg.accDepth (s.acc.length + payload.length) = true)
    (hnone : drainedOf (s.acc ++ payload).length s.cfg.drainCap < 3) :
    armData payload s = .ok (.flag true) (s.withAcc (s.acc ++ payload)) := by
  rw [armData_of_fits hnet hfits, if_pos hnone]

/-- With a group to drain, the one writeData takes what the pipeline gives and its answer is the arm's (R121). -/
theorem armData_of_groups {payload out : List Byte} {s : State} {f : Filter} (hnet : s.netPresent = true)
    (hfits : accFits s.cfg.accDepth (s.acc.length + payload.length) = true)
    (hgroup : 3 ≤ drainedOf (s.acc ++ payload).length s.cfg.drainCap)
    (hpipeline : groupsToNet s.cfg.fp s.de (drainedBytes s.cfg.drainCap (s.acc ++ payload)) = .ok (out, f)) :
    armData payload s =
      .ok (.flag (netWriteData out ((s.withAcc (keptBytes s.cfg.drainCap (s.acc ++ payload))).withFilter .de f)).1)
        (netWriteData out ((s.withAcc (keptBytes s.cfg.drainCap (s.acc ++ payload))).withFilter .de f)).2 := by
  rw [armData_of_fits hnet hfits, if_neg (by omega), sendGroups, State.withAcc_cfg, State.withAcc_de, hpipeline]

/-- A pipeline that fails has a group to fail on. -/
theorem armData_of_pipeline_error {payload : List Byte} {s : State} {bits : F32} (hnet : s.netPresent = true)
    (hfits : accFits s.cfg.accDepth (s.acc.length + payload.length) = true)
    (hpipeline : groupsToNet s.cfg.fp s.de (drainedBytes s.cfg.drainCap (s.acc ++ payload)) = .error bits) :
    armData payload s = .raised (.numericFault bits) (s.withAcc (keptBytes s.cfg.drainCap (s.acc ++ payload))) := by
  have hgroup : ¬ drainedOf (s.acc ++ payload).length s.cfg.drainCap < 3 := fun hnone => by
    simp [(dataDone_of_no_group hnone).pipeline] at hpipeline
  rw [armData_of_fits hnet hfits, if_neg hgroup]
  exact sendGroups_of_error hpipeline

/-! ## The first error -/

/-- The first element on which a traversal fails gives its error. -/
theorem mapM_eq_error_iff {ε α β : Type} {f : α → Except ε β} {xs : List α} {e : ε} :
    xs.mapM f = .error e ↔
      ∃ (ys zs : List α) (y : α), xs = ys ++ y :: zs ∧ (∀ v ∈ ys, ∃ w, f v = .ok w) ∧ f y = .error e := by
  constructor
  · intro h
    induction xs with
    | nil => cases h
    | cons x xs ih =>
      rw [List.mapM_cons] at h
      cases hx : f x with
      | error b =>
        rw [hx] at h
        cases h
        exact ⟨[], xs, x, rfl, by simp, hx⟩
      | ok w =>
        have hrest : xs.mapM f = .error e := by
          rw [hx] at h
          cases hxs : xs.mapM f <;> rw [hxs] at h <;> cases h
          rfl
        obtain ⟨ys, zs, y, rfl, hys, hy⟩ := ih hrest
        exact ⟨x :: ys, zs, y, rfl, List.forall_mem_cons.mpr ⟨⟨w, hx⟩, hys⟩, hy⟩
  · rintro ⟨ys, zs, y, rfl, hys, hy⟩
    induction ys with
    | nil => rw [List.nil_append, List.mapM_cons, hy]; rfl
    | cons v ys ih =>
      obtain ⟨⟨w, hv⟩, hys⟩ := List.forall_mem_cons.mp hys
      rw [List.cons_append, List.mapM_cons, hv, ih hys]
      rfl

end Sys2Proof.Machine
end

section
/-! PROOFS. The branches of N2M's body before the read, the read of a collaborator that keeps its contract, and the samples that
are packed (R116, R117, R125, R126). -/

namespace Sys2Proof.Machine

/-! ## Before the read -/

theorem bodyN2m_of_null {s : State} (c : BitVec 16) (hbuf : s.buf = none) :
    bodyN2m c s = .raised (.nullArgument .outputBuffer) s := by
  rw [bodyN2m, hbuf]

theorem bodyN2m_of_zero {s : State} (hbuf : s.buf ≠ none) : bodyN2m 0 s = .raised .zeroCapacity s := by
  obtain ⟨buf, hbuf⟩ := Option.ne_none_iff_exists'.mp hbuf
  simp only [bodyN2m, hbuf, if_true]

theorem bodyN2m_of_absent {s : State} {c : BitVec 16} (hbuf : s.buf ≠ none) (hc : c ≠ 0) (hnet : s.netPresent = false) :
    bodyN2m c s = .ok (.count 0 []) s := by
  obtain ⟨buf, hbuf⟩ := Option.ne_none_iff_exists'.mp hbuf
  simp only [bodyN2m, hbuf, if_neg hc, hnet, Bool.false_eq_true, if_false]

/-! ## The read -/

/-- The collaborator's next scheduled read, if any, is within what N2M asks for (R117). -/
def State.ReadKeepsContract (s : State) : Prop :=
  ∀ rd more, s.readDraws = rd :: more → rd.length ≤ s.cfg.netReadMax

theorem State.ReadKeepsContract.exists_yields {s : State} (h : s.ReadKeepsContract) : ∃ rd t, ReadYields s rd t := by
  cases hdraws : s.readDraws with
  | nil => exact ⟨_, _, .inr ⟨hdraws, rfl, rfl⟩⟩
  | cons rd more => exact ⟨rd, _, .inl ⟨more, hdraws, h rd more hdraws, rfl⟩⟩

theorem netRead_of_overlong {s : State} {rd : List Byte} {more : List (List Byte)} (hdraws : s.readDraws = rd :: more)
    (hlong : s.cfg.netReadMax < rd.length) : netRead s.cfg.netReadMax s = .stuck (.readTooLong rd.length) := by
  simp only [netRead, hdraws, if_pos hlong]

theorem bodyN2m_of_stuck_read {s : State} {c : BitVec 16} {r : Refusal} (hbuf : s.buf ≠ none) (hc : c ≠ 0)
    (hnet : s.netPresent = true) (hread : netRead s.cfg.netReadMax s = .stuck r) : bodyN2m c s = .stuck r := by
  obtain ⟨buf, hbuf⟩ := Option.ne_none_iff_exists'.mp hbuf
  simp only [bodyN2m, hbuf, if_neg hc, hnet, if_true, hread, andThen_stuck]

/-- The read, scheduled or free, is logged and the samples are received in the state that it leaves. -/
theorem bodyN2m_of_yields {s t : State} {c : BitVec 16} {rd buf : List Byte} (hbuf : s.buf = some buf) (hc : c ≠ 0)
    (hnet : s.netPresent = true) (hyields : ReadYields s rd t) :
    bodyN2m c s = receiveSamples buf c.toNat rd (t.logEvent (.read s.cfg.netReadMax rd)) := by
  obtain ⟨-, -, hkeeps, -⟩ := hyields.keeps
  exact bodyN2m_of_read hbuf hc hnet (netRead_of_yields hyields) (hkeeps.trans hbuf)

/-- The only branch of the body that has no move is an overlong read. -/
theorem State.ReadKeepsContract.bodyN2m_not_stuck {s : State} (h : s.ReadKeepsContract) (c : BitVec 16) (r : Refusal) :
    bodyN2m c s ≠ .stuck r := by
  cases hbuf : s.buf with
  | none => rw [bodyN2m_of_null c hbuf]; nofun
  | some buf =>
    have hsome : s.buf ≠ none := by rw [hbuf]; nofun
    by_cases hc : c = 0
    · rw [hc, bodyN2m_of_zero hsome]; nofun
    cases hnet : s.netPresent with
    | false => rw [bodyN2m_of_absent hsome hc hnet]; nofun
    | true =>
      obtain ⟨rd, t, hyields⟩ := h.exists_yields
      rw [bodyN2m_of_yields hbuf hc hnet hyields]
      intro hstuck
      have outcome := receiveSamples_outcome buf c.toNat rd (t.logEvent (.read s.cfg.netReadMax rd))
      rw [hstuck] at outcome
      nomatch outcome

theorem runCommand_stuck {i : Instr} {body : State → Ran Result} {s : State} {r : Refusal} (h : s.faulted = false)
    (hb : body s = .stuck r) : runCommand i body s = .refused r := by
  simp [runCommand, h, hb]

/-- A command whose body is never stuck has a next state: refused, returned or faulted. -/
theorem exists_next_of_not_stuck {i : Instr} {body : State → Ran Result} {s : State} (h : ∀ r, body s ≠ .stuck r) :
    ∃ t, runCommand i body s = .next t := by
  cases hf : s.faulted with
  | true => exact ⟨_, runCommand_refused hf⟩
  | false =>
    cases hb : body s with
    | ok r t => exact ⟨_, runCommand_ok hf hb⟩
    | raised x t => exact ⟨_, runCommand_raised hf hb⟩
    | stuck r => exact absurd hb (h r)

/-! ## What is filtered -/

theorem receiveSamples_ok_pre {buf rd : List Byte} {capacity : Nat} {s t : State} {r : Result}
    (h : receiveSamples buf capacity rd s = .ok r t) :
    t.pre = (filterRun s.cfg.fp s.pre ((pairSamples rd).map (decode16 s.cfg.fp))).2 := by
  simp only [receiveSamples] at h
  split at h <;> cases h
  rfl

/-- Of two N2M that complete in one state both leave PRE as it was, with no collaborator, or as the run over all samples of the
one read leaves it: the capacity is in neither (R126). -/
theorem bodyN2m_ok_same_pre {c e : BitVec 16} {s t u : State} {r q : Result} (hc : c ≠ 0) (he : e ≠ 0)
    (ht : bodyN2m c s = .ok r t) (hu : bodyN2m e s = .ok q u) : t.pre = u.pre := by
  cases hbuf : s.buf with
  | none => rw [bodyN2m_of_null c hbuf] at ht; cases ht
  | some buf =>
    have hsome : s.buf ≠ none := by rw [hbuf]; nofun
    cases hnet : s.netPresent with
    | false =>
      rw [bodyN2m_of_absent hsome hc hnet] at ht
      rw [bodyN2m_of_absent hsome he hnet] at hu
      cases ht
      cases hu
      rfl
    | true =>
      cases hread : netRead s.cfg.netReadMax s with
      | stuck x => rw [bodyN2m_of_stuck_read hsome hc hnet hread] at ht; cases ht
      | raised x v => exact absurd hread netRead_not_raised
      | ok rd v =>
        obtain ⟨-, draws, k, rfl⟩ := netRead_ok hread
        rw [bodyN2m_of_read hbuf hc hnet hread hbuf] at ht
        rw [bodyN2m_of_read hbuf he hnet hread hbuf] at hu
        exact (receiveSamples_ok_pre ht).trans (receiveSamples_ok_pre hu).symm

/-! ## A sample that is no number -/

/-- Packing stops at the first sample in stream order that is no number, in whichever lane it stands (R125, R151). -/
theorem packPairs_of_first_error {fp : Fp} {ys zs : List F32} {y bits : F32} (hpairs : (ys ++ y :: zs).length % 2 = 0)
    (hys : ∀ v ∈ ys, ∃ z, encode12 fp v = .ok z) (hy : encode12 fp y = .error bits) :
    (packPairs fp (ys ++ y :: zs)).2 = some bits := by
  induction ys using List.twoStepInduction with
  | nil =>
    cases zs with
    | nil => simp at hpairs
    | cons z zs => simp only [List.nil_append, packPairs, hy]
  | singleton a =>
    obtain ⟨za, ha⟩ := hys a (by simp)
    simp only [List.cons_append, List.nil_append, packPairs, ha, hy]
  | cons_cons a b ys ih =>
    obtain ⟨za, ha⟩ := hys a (by simp)
    obtain ⟨zb, hb⟩ := hys b (by simp)
    rw [List.cons_append, List.cons_append, packPairs_cons_ok _ ha hb]
    simp only [List.cons_append, List.length_cons] at hpairs
    exact ih (by omega) fun v hv => hys v (by simp [hv])

/-- Packing that fails raises NumericFault; PRE and the buffer are whatever they are by then. -/
theorem receiveSamples_of_error {buf rd : List Byte} {capacity g : Nat} {s : State} {bits : F32}
    (hg : g = packCount (rd.length / 2) capacity s.cfg.outCapMax)
    (hbad : (packPairs s.cfg.fp ((filterRun s.cfg.fp s.pre ((pairSamples rd).map (decode16 s.cfg.fp))).1.take (2 * g))).2 =
      some bits) :
    ∃ f b, receiveSamples buf capacity rd s = .raised (.numericFault bits) ((s.withFilter .pre f).withBuf b) := by
  subst hg
  simp only [receiveSamples, filterRun_length, List.length_map, pairSamples_length, Config.groupSamples, hbad]
  exact ⟨_, _, rfl⟩

end Sys2Proof.Machine
end

section
/-! PROOFS. The family 43_control_orchestrator.md. -/

open Sys2Proof Sys2Proof.Machine

/-- Settles O27: with no whole group within the cap the arm ends after its append. -/
theorem dataBelowOneGroupOnlyBuffers : Obligations.DataBelowOneGroupOnlyBuffers := by
  unfold Obligations.DataBelowOneGroupOnlyBuffers
  intro s payload hf hnet htags hfits hfew
  have hnone : drainedOf (s.acc ++ payload).length s.cfg.drainCap < 3 := by
    rw [drainedOf, List.length_append]
    omega
  exact exec_chunk_and_arm_of_ok hf (bodyM2n_of_data payload htags) rfl (armData_of_no_group hnet (accFits_iff.mpr hfits) hnone)

/-- Settles O28: the arm ends in its one writeData, whose answer is the next scheduled one or a free one. -/
theorem dataSendsWholeGroupsOnce : Obligations.DataSendsWholeGroupsOnce := by
  unfold Obligations.DataSendsWholeGroupsOnce
  intro s payload n out f hf hnet htags hfits hn hgroup hpipeline
  rw [← List.length_append] at hn
  subst hn
  have harm := armData_of_groups hnet (accFits_iff.mpr hfits) hgroup hpipeline
  have hexec := exec_chunk_and_arm_of_ok hf (bodyM2n_of_data payload htags) (arm := .m2nData payload) rfl harm
  refine ⟨fun r more hdraws => ?_, fun hdraws => ⟨Config.freeData s.freeCount, ?_⟩⟩
  · rwa [netWriteData_of_scheduled (by simpa using hdraws)] at hexec
  · rwa [netWriteData_of_unscheduled (by simpa using hdraws)] at hexec

/-- Settles O30: the pipeline's error is that of ENC16 traversed over the filtered samples. -/
theorem pipelineFaultsAtTheFirstNonNumber : Obligations.PipelineFaultsAtTheFirstNonNumber := by
  unfold Obligations.PipelineFaultsAtTheFirstNonNumber
  intro fp k d f bits _
  rw [groupsToNet_eq_mapM, ← mapM_eq_error_iff]
  cases (filterRun fp f ((tripletSamples d).map (decode12 fp))).1.mapM (encode16 fp) <;> simp [Except.map]

/-- Settles O31: at the raise only ACC has changed, and no write has been issued. -/
theorem dataWithNonNumberRaisesNumericFault : Obligations.DataWithNonNumberRaisesNumericFault := by
  unfold Obligations.DataWithNonNumberRaisesNumericFault
  intro s payload n bits hf hnet htags hfits hn hpipeline
  rw [← List.length_append] at hn
  subst hn
  have harm := armData_of_pipeline_error hnet (accFits_iff.mpr hfits) hpipeline
  exact chunk_and_arm_endInFault (x := .numericFault bits) hf rfl (bodyM2n_of_data payload htags) rfl harm

/-- Settles O32: what is drained leaves ACC, and the pipeline gives four bytes for every three of it. -/
theorem dataSizes : Obligations.DataSizes := by
  unfold Obligations.DataSizes
  intro s t payload _ hnet htags hexec ht
  obtain ⟨-, out, hacc, hpipeline, hwritten⟩ := exec_data_done hnet htags hexec ht
  have hkept := congrArg List.length hacc
  rw [keptBytes_length, List.length_append] at hkept
  have hsent := groupsToNet_length _ _ _ _ _ (drainedBytes_length _ _) hpipeline
  rw [List.length_append] at hsent
  refine ⟨hkept, ?_, fun hcap hle => ?_, fun hcap hgt => ?_⟩
  · rw [hwritten, List.length_append, hsent, drainedOf]
    omega
  · rw [hkept, hcap, drainedOf]
    omega
  · rw [hkept, hcap, drainedOf]
    omega

/-- Settles O37: the packed samples are whole pairs, so packing meets the first of them that is no number. -/
theorem n2mWithNonNumberRaisesNumericFault : Obligations.N2mWithNonNumberRaisesNumericFault := by
  unfold Obligations.N2mWithNonNumberRaisesNumericFault
  intro s t c rd buf ys zs y bits g hf hbuf hc hnet hyields hg hsamples hys hy
  have hpairs : (ys ++ y :: zs).length % 2 = 0 := by
    rw [← hsamples, List.length_take, filterRun_length, List.length_map, pairSamples_length]
    omega
  have hbad := packPairs_of_first_error hpairs hys hy
  obtain ⟨hcfg, hpre, -, htrace⟩ := hyields.keeps
  rw [← hsamples, ← hcfg, ← hpre] at hbad
  rw [← hcfg] at hg
  obtain ⟨f, b, hraise⟩ :=
    receiveSamples_of_error (buf := buf) (s := t.logEvent (.read s.cfg.netReadMax rd)) hg hbad
  refine ⟨_, runCommand_raised hf ((bodyN2m_of_yields hbuf hc hnet hyields).trans hraise),
    takeFault_entered (.numericFault bits) (((t.logEvent (.read s.cfg.netReadMax rd)).withFilter .pre f).withBuf b), ?_⟩
  simp [htrace]

/-- Settles O39: the read is the same whatever the capacity, and PRE is what the run over all its samples leaves. -/
theorem n2mFiltersWhateverTheCapacity : Obligations.N2mFiltersWhateverTheCapacity := by
  unfold Obligations.N2mFiltersWhateverTheCapacity
  intro s t u c e hc he _ hexec hexec' ht hu
  obtain ⟨-, r, t, hbody, rfl⟩ := runCommand_next_running hexec ht
  obtain ⟨-, q, u, hbody', rfl⟩ := runCommand_next_running hexec' hu
  exact bodyN2m_ok_same_pre (t := t) (u := u) hc he hbody hbody'

/-- Settles O40: within the contract no branch of the body is stuck, and past it the read is. -/
theorem n2mStopsOnlyOnAnOverlongRead : Obligations.N2mStopsOnlyOnAnOverlongRead := by
  unfold Obligations.N2mStopsOnlyOnAnOverlongRead
  exact fun s c => ⟨fun hcontract => exists_next_of_not_stuck (State.ReadKeepsContract.bodyN2m_not_stuck hcontract c),
    fun rd more hf hbuf hc hnet hdraws hlong =>
      runCommand_stuck hf (bodyN2m_of_stuck_read hbuf hc hnet (netRead_of_overlong hdraws hlong))⟩

/-- Settles O8: whatever the body, it is not run while FAULTED. -/
theorem faultedBlockRefusesEveryOperation : Obligations.FaultedBlockRefusesEveryOperation := by
  unfold Obligations.FaultedBlockRefusesEveryOperation
  intro i s hf
  exact ⟨fun hi => exec_host_of_faulted hi hf, fun hi => exec_inner_of_faulted hi hf⟩

/-- Settles O9: the bodies make these checks first and raise in the state they were given. -/
theorem preconditionViolationsFailFast : Obligations.PreconditionViolationsFailFast := by
  unfold Obligations.PreconditionViolationsFailFast
  intro s hf
  have ends {i : Instr} {body : State → Ran Result} {x : Raise} (hi : i.level = .host)
      (hexec : exec i s = runCommand i body s) (hb : body s = .raised x s) :
      body s = .raised x s ∧ EndsInFault i (raiseCode x) x s := ⟨hb, endsInFault_of_runCommand hi hexec hf hb⟩
  exact ⟨ends (x := .zeroLength) rfl rfl rfl, ends (x := .nullArgument .chunk) rfl rfl rfl,
    fun hbuf => ends (x := .zeroCapacity) rfl rfl (bodyN2m_of_zero hbuf),
    fun hbuf c => ends (x := .nullArgument .outputBuffer) rfl rfl (bodyN2m_of_null c hbuf)⟩

/-- Settles O20: the hooks' body returns in the state it was given, and their records begin with their codes. -/
theorem hooksOnlyReturn : Obligations.HooksOnlyReturn := by
  unfold Obligations.HooksOnlyReturn
  exact ⟨fun s hf => ⟨fun ms => runCommand_ok hf rfl, fun flag => runCommand_ok hf rfl⟩,
    fun s hf => ⟨fun ms => exec_host_of_faulted rfl hf, fun flag => exec_host_of_faulted rfl hf⟩,
    fun _ _ => rfl, fun _ _ => rfl⟩

/-- Settles O21: HEADER is the first comparison of the dispatch, and its arm returns in the state it was given. -/
theorem headerReturnsTrue : Obligations.HeaderReturnsTrue := by
  unfold Obligations.HeaderReturnsTrue
  exact fun s payload hf => exec_chunk_and_arm_of_ok hf (bodyM2n_of_header s payload) rfl rfl

/-- Settles O23: the arm is the one writeEOT, whose answer is the next scheduled one or a free one. -/
theorem eotReturnsTheAnswer : Obligations.EotReturnsTheAnswer := by
  unfold Obligations.EotReturnsTheAnswer
  intro s payload hf hnet htags
  have hexec :=
    exec_chunk_and_arm_of_ok hf (bodyM2n_of_eot payload htags) (arm := .m2nEot payload) rfl (armEot_of_present hnet)
  refine ⟨fun r more hdraws => ?_, fun hdraws => ⟨Config.freeEot s.freeCount, ?_⟩⟩
  · rw [netWriteEot_of_scheduled hdraws] at hexec
    simpa [State.report, State.yield, State.logEvent] using hexec
  · rw [netWriteEot_of_unscheduled hdraws] at hexec
    simpa [State.report, State.yield, State.logEvent] using hexec

/-- Settles O24: the arm raises before it issues its write. -/
theorem eotWithoutCollaboratorRaisesNetAbsent : Obligations.EotWithoutCollaboratorRaisesNetAbsent := by
  unfold Obligations.EotWithoutCollaboratorRaisesNetAbsent
  intro s payload hf hnet htags
  have hbody := bodyM2n_of_eot payload htags
  have harm := armEot_of_absent hnet
  exact ⟨hbody.trans harm, chunk_and_arm_endInFault (x := .netAbsent) (acc := s.acc) hf rfl hbody rfl harm⟩

/-- Settles O25: without the collaborator the arm does not append. -/
theorem dataWithoutCollaboratorIsDropped : Obligations.DataWithoutCollaboratorIsDropped := by
  unfold Obligations.DataWithoutCollaboratorIsDropped
  exact fun s payload hf hnet htags =>
    exec_chunk_and_arm_of_ok hf (bodyM2n_of_data payload htags) rfl (armData_of_absent payload hnet)

/-- Settles O34: without the collaborator the body returns before the read, and an empty read has no sample to filter. -/
theorem n2mWithoutDataReturnsZero : Obligations.N2mWithoutDataReturnsZero := by
  unfold Obligations.N2mWithoutDataReturnsZero
  intro s c hf hbuf hc
  refine ⟨fun hnet => runCommand_ok hf (bodyN2m_of_absent hbuf hc hnet), fun t hnet hyields => ?_⟩
  obtain ⟨-, -, hkeeps, htrace⟩ := hyields.keeps
  obtain ⟨buf, hbuf⟩ := Option.ne_none_iff_exists'.mp hbuf
  have hbody := (bodyN2m_of_yields hbuf hc hnet hyields).trans (receiveSamples_nil _ (hkeeps.trans hbuf))
  refine (runCommand_ok hf hbody).trans ?_
  simp [State.report, State.yield, State.logEvent, htrace]

end

section
/-! PROOFS. What is fetched from a host port that holds no whole record (R57, R168). -/

namespace Sys2Proof.Machine

theorem fetchHost_of_empty {s : State} (h : s.stream = []) : fetchHost s = .become s := by
  simp only [fetchHost, h, decodeHost]

theorem fetchHost_of_incomplete {s : State} {c : Byte} (h : decodeHost s.stream = .error (.incomplete c)) :
    fetchHost s = .become s := by
  simp only [fetchHost, h]

theorem step_of_become {s t : State} (h : fetch s = .become t) : step s = .next t := by simp only [step, h]

end Sys2Proof.Machine
end

section
/-! PROOFS. The family 70_reset_and_hazards.md. -/

open Sys2Proof Sys2Proof.Machine

/-- Settles O11: the reset input is served first, and a legal configuration passes the check, so what is loaded stays. -/
theorem resetWritesTheListedState : Obligations.ResetWritesTheListedState := by
  unfold Obligations.ResetWritesTheListedState
  intro s hr hlegal
  rw [step_of_reset hr, State.restart, load_of_legal hlegal, loadFilter, loadFilter]

/-- Settles O2: neither an empty nor an incomplete stream gives an operation, and the fetch answers the state it was given. -/
theorem blockWaitsForACommand : Obligations.BlockWaitsForACommand := by
  unfold Obligations.BlockWaitsForACommand
  intro s hr hu hstream
  apply step_of_become
  rw [fetch_of_host hr hu]
  obtain hempty | ⟨c, hincomplete⟩ := hstream
  · exact fetchHost_of_empty hempty
  · exact fetchHost_of_incomplete hincomplete

end
